-- ==== Sys2Proof/Word.lean ====
section
/-! DEFINITION. The machine's words: scalars, bytes, 512-byte vectors, predicates and tags (02 R22, 04 R50, 13 R261). -/

namespace Sys2Proof

/-- A scalar position, slot or control register: 64 bits. -/
abbrev Word := BitVec 64

/-- One byte. -/
abbrev Byte := BitVec 8

/-- A vector position or slot: 512 bytes, byte 0 at the low end (R75). -/
abbrev Vec := BitVec 4096

/-- A predicate register: 1,024 bits (R22). -/
abbrev Pred := BitVec 1024

/-- A generation tag: partition in [11:8], generation in [7:0] (R261). -/
abbrev Tag := BitVec 12

end Sys2Proof
end

