-- ==== Sys2Proof/Syntax.lean ====
section
/-! DEFINITION. Abstract syntax: one constructor of `Instr` for each row of spec/opcode_table.json.

Rows 0 to 199 are instruction words. Each carries the header of R46 and its format's fields (R57-R68), under the
names spec/04 gives the fields. Rows 200 to 279 are the steps of the machine that no word names (95): they carry the
agent, place or message they concern, and the agenda of the state says when they happen. -/

namespace Sys2Proof

/-- The common header below MAJ and MIN (R46). -/
structure Hdr where
  stg : BitVec 3
  grd : BitVec 7
  gsn : BitVec 1
deriving DecidableEq, Repr

/-- A 9-bit operand field: NEG [8], ABS [7], KND [6], IDX [5:0] (R48). -/
abbrev OpField := BitVec 9

/-- Format A (R57). -/
structure FmtA where
  opa : OpField
  opb : OpField
  opc : OpField
  clp : BitVec 2
  scl : BitVec 5
  typ : BitVec 7
deriving DecidableEq, Repr

/-- Format I (R58). -/
structure FmtI where
  opa : OpField
  imm : BitVec 32
deriving DecidableEq, Repr

/-- Format B (R59). -/
structure FmtB where
  opa : OpField
  nps : BitVec 4
  aux4 : BitVec 4
  off : BitVec 24
deriving DecidableEq, Repr

/-- Format M (R60); `rsv` is the reserved bit [12]. -/
structure FmtM where
  opa : OpField
  opb : OpField
  size : BitVec 3
  ord : BitVec 3
  scp : BitVec 3
  mca : BitVec 1
  rsv : BitVec 1
  disp : BitVec 12
deriving DecidableEq, Repr

/-- Format T (R61). -/
structure FmtT where
  opa : OpField
  opb : OpField
  opc : OpField
  mca : BitVec 1
  hnd : BitVec 13
deriving DecidableEq, Repr

/-- Format Y (R62). -/
structure FmtY where
  opa : OpField
  opb : OpField
  opc : OpField
  ord : BitVec 3
  scp : BitVec 3
  mca : BitVec 1
  typ : BitVec 7
deriving DecidableEq, Repr

/-- Format Q (R63); `rsv` is the reserved field [11:0]. -/
structure FmtQ where
  opa : OpField
  opb : OpField
  qn : BitVec 3
  cnt : BitVec 8
  rsv : BitVec 12
deriving DecidableEq, Repr

/-- Format S (R64). -/
structure FmtS where
  opa : OpField
  opb : OpField
  dst : BitVec 7
  aux : BitVec 16
deriving DecidableEq, Repr

/-- An engine record: the lead word's fields and words 1 to 7 (R65). -/
structure FmtR where
  acq : BitVec 1
  rel : BitVec 1
  scp : BitVec 3
  mca : BitVec 1
  ovn : BitVec 2
  ov0 : OpField
  ov1 : OpField
  ov2 : OpField
  aux : BitVec 6
  w1 : Word
  w2 : Word
  w3 : Word
  w4 : Word
  w5 : Word
  w6 : Word
  w7 : Word
deriving DecidableEq, Repr

/-- Element types (R69). -/
inductive Ty where
  | i4 | n4 | i8 | n8 | i16 | n16 | i32 | n32 | i64 | n64 | m64
  | f16 | bf16 | f32
  | mx4 | mx6 | mx8 | mx10 | mx12 | mx14 | mx16
deriving DecidableEq, Repr

/-- A page walk in flight to an owner (R272): the handle, the coordinates it translates and the page-table version of
the shard when the walk started. -/
structure WalkReq where
  handle : Nat
  c0 : Nat
  c1 : Nat
  c2 : Nat
  c3 : Nat
  version : Nat
  /-- Tag of the tenancy whose access began the walk (R262). -/
  tag : Tag
deriving DecidableEq, Repr

/-- The four classes of dynamic traffic (R335). -/
inductive MsgClass where
  | request | forward | reply | management
deriving DecidableEq, Repr

/-- A flit at a router input (R330, R335): its class or `none` for a circuit flit, the tag it carries (R262), whether it is
a write (R266), the outputs it needs router by router of the package if it is dynamic traffic, and its 256-byte body. -/
structure Flit where
  cls : Option MsgClass
  tag : Tag
  write : Bool
  route : List Nat
  body : BitVec 2048
deriving DecidableEq, Repr

/-- What a host packet asks of the partition's flat space (R337) (DESIGN CHOICE, log 52). -/
inductive HostOp where
  /-- Read `n` bytes at a flat address. -/
  | read (addr n : Nat)
  /-- Write the bytes at a flat address. -/
  | write (addr : Nat) (bytes : List Byte)
  /-- Add to an 8-byte or 4-byte unit, indivisibly at its home. -/
  | add (addr n v : Nat)
deriving DecidableEq, Repr

/-- A host packet: its fabric tenancy id and its request (R337). -/
structure HostPacket where
  tenancy : BitVec 16
  op : HostOp
deriving DecidableEq, Repr

/-- A storage place that an error concerns: one unit of a store of R262 (R292, R293). -/
inductive ErrLoc where
  | hbm (die line : Nat)
  | near (core block : Nat)
  | bank (die block : Nat)
  | tileUnit (core tile unit : Nat)
  | flag (group idx : Nat)
  | queueEntry (core q i : Nat)
  | window (tid distance : Nat)
  | sslot (tid n : Nat)
  | vslot (tid n : Nat)
  | pred (tid n : Nat)
  | frame (tid n : Nat)
  | tblock (die i : Nat)
  | tlbEntry (core i : Nat)
  /-- The place in the group's shadow bank that `l` is in the live one. -/
  | shadow (group : Nat) (l : ErrLoc)
deriving DecidableEq, Repr

/-- The instructions and steps of the machine, one constructor for each row of the opcode table. -/
inductive Instr where
  /-- ADD (R95): Appends the scalar a + b, finished for type T. -/
  | add (h : Hdr) (x : FmtA)
  /-- SUB (R95): Appends the scalar a − b, finished for type T. -/
  | sub (h : Hdr) (x : FmtA)
  /-- MUL (R95): Appends the scalar a × b, finished for type T. -/
  | mul (h : Hdr) (x : FmtA)
  /-- MULH (R97): Appends the high half of the exact 2w-bit product, rounded toward −∞. -/
  | mulh (h : Hdr) (x : FmtA)
  /-- DIV (R95): Appends a ÷ b, using the truncated quotient of R77 for integer types. -/
  | div (h : Hdr) (x : FmtA)
  /-- REM (R95): Appends the remainder of a ÷ b as R77 defines it. -/
  | rem (h : Hdr) (x : FmtA)
  /-- MAD (R95): Appends a × b + c, rounded once. -/
  | mad (h : Hdr) (x : FmtA)
  /-- AND (R95): Appends the bitwise AND of a and b. -/
  | and_ (h : Hdr) (x : FmtA)
  /-- OR (R95): Appends the bitwise OR of a and b. -/
  | or_ (h : Hdr) (x : FmtA)
  /-- XOR (R95): Appends the bitwise XOR of a and b. -/
  | xor_ (h : Hdr) (x : FmtA)
  /-- ANDN (R95): Appends a AND NOT b. -/
  | andn (h : Hdr) (x : FmtA)
  /-- SHL (R98): Appends a shifted left by a count read as n64. -/
  | shl (h : Hdr) (x : FmtA)
  /-- SHR (R98): Appends a read as natural and shifted right, with zero fill. -/
  | shr (h : Hdr) (x : FmtA)
  /-- SAR (R98): Appends a shifted right, filled with its sign bit. -/
  | sar (h : Hdr) (x : FmtA)
  /-- ROTL (R98): Appends a rotated left by b mod w places. -/
  | rotl (h : Hdr) (x : FmtA)
  /-- CLZ (R99): Appends the number of leading zero bits of a. -/
  | clz (h : Hdr) (x : FmtA)
  /-- CTZ (R99): Appends the number of trailing zero bits of a. -/
  | ctz (h : Hdr) (x : FmtA)
  /-- POPC (R99): Appends the number of one bits of a. -/
  | popc (h : Hdr) (x : FmtA)
  /-- MIN (R95): Appends the lesser of a and b by type T. -/
  | min (h : Hdr) (x : FmtA)
  /-- MAX (R95): Appends the greater of a and b by type T. -/
  | max (h : Hdr) (x : FmtA)
  /-- CMP3 (R100): Appends −1, 0, +1 or +2 as the comparison of a and b gives. -/
  | cmp3 (h : Hdr) (x : FmtA)
  /-- SEL (R101): Appends the bits of a if c is nonzero, and the bits of b otherwise. -/
  | sel (h : Hdr) (x : FmtA)
  /-- BFX (R102): Extracts a bit field from a, as a control scalar describes it. -/
  | bfx (h : Hdr) (x : FmtA)
  /-- BFI (R102): Inserts a bit field of b into a, as a control scalar describes it. -/
  | bfi (h : Hdr) (x : FmtA)
  /-- BNET (R103): Appends a 64-bit scalar that bit-network pattern n permutes from a. -/
  | bnet (h : Hdr) (x : FmtA)
  /-- CVT (R104): Converts a scalar between types with scaling, one rounding and a clamp. -/
  | cvt (h : Hdr) (x : FmtA)
  /-- SQRT (R106): Appends the correctly rounded f32 square root of a. -/
  | sqrt (h : Hdr) (x : FmtA)
  /-- LEA (R105): Appends the address a + b × s, modulo 2^64. -/
  | lea (h : Hdr) (x : FmtA)
  /-- MOV (R106): Appends its operand passed through Finish. -/
  | mov (h : Hdr) (x : FmtA)
  /-- VADD (R109): Appends the lane-wise sum of a and b. -/
  | vadd (h : Hdr) (x : FmtA)
  /-- VSUB (R109): Appends the lane-wise difference of a and b. -/
  | vsub (h : Hdr) (x : FmtA)
  /-- VMUL (R109): Appends the lane-wise product of a and b. -/
  | vmul (h : Hdr) (x : FmtA)
  /-- VMULH (R109): Appends the lane-wise high half of each product. -/
  | vmulh (h : Hdr) (x : FmtA)
  /-- VMAD (R109): Appends the lane-wise fused a × b + c. -/
  | vmad (h : Hdr) (x : FmtA)
  /-- VMIN (R109): Appends the lane-wise minimum of a and b. -/
  | vmin (h : Hdr) (x : FmtA)
  /-- VMAX (R109): Appends the lane-wise maximum of a and b. -/
  | vmax (h : Hdr) (x : FmtA)
  /-- VAND (R109): Appends the lane-wise bitwise AND. -/
  | vand (h : Hdr) (x : FmtA)
  /-- VOR (R109): Appends the lane-wise bitwise OR. -/
  | vor (h : Hdr) (x : FmtA)
  /-- VXOR (R109): Appends the lane-wise bitwise XOR. -/
  | vxor (h : Hdr) (x : FmtA)
  /-- VSHL (R110): Appends each lane shifted left by its natural count. -/
  | vshl (h : Hdr) (x : FmtA)
  /-- VSHR (R110): Appends each lane shifted right, with zero fill. -/
  | vshr (h : Hdr) (x : FmtA)
  /-- VSAR (R110): Appends each lane shifted right, filled with its sign bit. -/
  | vsar (h : Hdr) (x : FmtA)
  /-- VSEL (R109): Selects each lane's bits from a or from b, as lane i of c gives. -/
  | vsel (h : Hdr) (x : FmtA)
  /-- VDIV (R109): Appends the lane-wise quotient of a and b. -/
  | vdiv (h : Hdr) (x : FmtA)
  /-- VSQRT (R111): Appends the correctly rounded square root of each lane. -/
  | vsqrt (h : Hdr) (x : FmtA)
  /-- VRCP (R111): Appends the correctly rounded reciprocal of each lane. -/
  | vrcp (h : Hdr) (x : FmtA)
  /-- VRSQRT (R111): Appends the correctly rounded reciprocal square root of each lane. -/
  | vrsqrt (h : Hdr) (x : FmtA)
  /-- VEXP2 (R111): Appends 2 raised to each lane, correctly rounded. -/
  | vexp2 (h : Hdr) (x : FmtA)
  /-- VLOG2 (R111): Appends the base-2 logarithm of each lane, correctly rounded. -/
  | vlog2 (h : Hdr) (x : FmtA)
  /-- VCVT (R112): Converts each lane between two types of equal lane width. -/
  | vcvt (h : Hdr) (x : FmtA)
  /-- VWID (R113): Widens the lanes and appends two or four vectors in interleave order. -/
  | vwid (h : Hdr) (x : FmtA)
  /-- VRED (R116): Appends the exact sum of the enabled lanes, finished once. -/
  | vred (h : Hdr) (x : FmtA)
  /-- VSCAN (R117): Appends the prefix sums of the lanes, each rounded once. -/
  | vscan (h : Hdr) (x : FmtA)
  /-- VPERM (R118): Permutes the lanes of a concatenated pair by an index vector. -/
  | vperm (h : Hdr) (x : FmtA)
  /-- VBCAST (R118): Broadcasts lane k of a to every lane. -/
  | vbcast (h : Hdr) (x : FmtA)
  /-- VSLIDE (R118): Slides a concatenated pair of vectors by k lanes. -/
  | vslide (h : Hdr) (x : FmtA)
  /-- VTRN (R118): Transposes lane pairs of a and b and appends two vectors. -/
  | vtrn (h : Hdr) (x : FmtA)
  /-- VPACK (R114): Narrows two or four consumed positions into one vector. -/
  | vpack (h : Hdr) (x : FmtA)
  /-- VMXQ (R119): Quantises a float vector to mx codes and appends the codes and the scales. -/
  | vmxq (h : Hdr) (x : FmtA)
  /-- VMXDQ (R120): Dequantises mx codes with their scales into a float type. -/
  | vmxdq (h : Hdr) (x : FmtA)
  /-- VBMAP (R121): Marks all-zero runs of eight lanes as bits of a scalar. -/
  | vbmap (h : Hdr) (x : FmtA)
  /-- VBNET (R103): Applies a bit-network pattern to each 64-bit lane. -/
  | vbnet (h : Hdr) (x : FmtA)
  /-- VPOPC (R109): Appends the count of one bits in each lane. -/
  | vpopc (h : Hdr) (x : FmtA)
  /-- VCLZ (R109): Appends the count of leading zeros in each lane. -/
  | vclz (h : Hdr) (x : FmtA)
  /-- VDOT4 (R122): Appends four-term 8-bit dot products accumulated into 32-bit lanes. -/
  | vdot4 (h : Hdr) (x : FmtA)
  /-- VMOV (R109): Appends each lane passed through Finish. -/
  | vmov (h : Hdr) (x : FmtA)
  /-- VCVTSR (R115): Narrows two f32 vectors to bf16 with stochastic rounding. -/
  | vcvtsr (h : Hdr) (x : FmtA)
  /-- VLI (R109): Appends a + i in each lane i. -/
  | vli (h : Hdr) (x : FmtA)
  /-- LI (R107): Appends the sign-extended 32-bit immediate. -/
  | li (h : Hdr) (x : FmtI)
  /-- LIH (R107): Appends (a[31:0] << 32) OR imm. -/
  | lih (h : Hdr) (x : FmtI)
  /-- ADDI (R107): Appends a + imm, modulo 2^64. -/
  | addi (h : Hdr) (x : FmtI)
  /-- ANDI (R107): Appends a AND the sign-extended immediate. -/
  | andi (h : Hdr) (x : FmtI)
  /-- ORI (R107): Appends a OR the zero-extended immediate. -/
  | ori (h : Hdr) (x : FmtI)
  /-- XORI (R107): Appends a XOR the zero-extended immediate. -/
  | xori (h : Hdr) (x : FmtI)
  /-- SHLI (R107): Appends a shifted left by the immediate count. -/
  | shli (h : Hdr) (x : FmtI)
  /-- SHRI (R107): Appends a shifted right by the immediate count, with zero fill. -/
  | shri (h : Hdr) (x : FmtI)
  /-- SARI (R107): Appends a shifted right by the immediate count, with sign fill. -/
  | sari (h : Hdr) (x : FmtI)
  /-- LF (R107): Appends the immediate bit pattern as an f32 scalar. -/
  | lf (h : Hdr) (x : FmtI)
  /-- MQADD (R152): Appends (a + b) mod q. -/
  | mqadd (h : Hdr) (x : FmtA)
  /-- MQSUB (R152): Appends (a − b) mod q. -/
  | mqsub (h : Hdr) (x : FmtA)
  /-- MQMUL (R152): Appends (a × b) mod q. -/
  | mqmul (h : Hdr) (x : FmtA)
  /-- MQMAC (R152): Appends (a × b + c) mod q. -/
  | mqmac (h : Hdr) (x : FmtA)
  /-- MQRED (R152): Appends a reduced modulo q. -/
  | mqred (h : Hdr) (x : FmtA)
  /-- MQBCT (R152): Appends the two outputs of a Cooley–Tukey butterfly modulo q. -/
  | mqbct (h : Hdr) (x : FmtA)
  /-- MQBGS (R152): Appends the two outputs of a Gentleman–Sande butterfly modulo q. -/
  | mqbgs (h : Hdr) (x : FmtA)
  /-- MQSET (R152): Writes a scalar value into a modulus slot. -/
  | mqset (h : Hdr) (x : FmtA)
  /-- SGET (R236): Appends scalar slot N. -/
  | sget (h : Hdr) (x : FmtS)
  /-- SPUT (R236): Writes scalar a to slot N. -/
  | sput (h : Hdr) (x : FmtS)
  /-- VGET (R236): Appends vector slot N. -/
  | vget (h : Hdr) (x : FmtS)
  /-- VPUT (R236): Writes vector a to slot N. -/
  | vput (h : Hdr) (x : FmtS)
  /-- KEEP (R236): Re-appends a run of n positions in age order. -/
  | keep (h : Hdr) (x : FmtS)
  /-- PCMP (R237): Compares scalars or lanes and writes the result into a predicate. -/
  | pcmp (h : Hdr) (x : FmtS)
  /-- PSET (R238): Sets every bit of a predicate to a value. -/
  | pset (h : Hdr) (x : FmtS)
  /-- PAND (R238): Writes the bitwise AND of two predicates. -/
  | pand (h : Hdr) (x : FmtS)
  /-- POR (R238): Writes the bitwise OR of two predicates. -/
  | por (h : Hdr) (x : FmtS)
  /-- PXOR (R238): Writes the bitwise XOR of two predicates. -/
  | pxor (h : Hdr) (x : FmtS)
  /-- PNOT (R238): Writes the complement of a predicate. -/
  | pnot (h : Hdr) (x : FmtS)
  /-- PMOV (R238): Copies one predicate to another. -/
  | pmov (h : Hdr) (x : FmtS)
  /-- PANY (R238): Appends 1 if any bit of a predicate is set, and 0 otherwise. -/
  | pany (h : Hdr) (x : FmtS)
  /-- CSRR (R239): Appends the control register named by its id. -/
  | csrr (h : Hdr) (x : FmtS)
  /-- CSRW (R239): Writes a scalar to a control register under the fields' access codes. -/
  | csrw (h : Hdr) (x : FmtS)
  /-- TDSET (R134): Writes a field of a tile descriptor. -/
  | tdset (h : Hdr) (x : FmtS)
  /-- TDGET (R134): Appends a field of a tile descriptor. -/
  | tdget (h : Hdr) (x : FmtS)
  /-- LIDX (R234): Appends the logical iteration k − s of a loop stage. -/
  | lidx (h : Hdr) (x : FmtS)
  /-- BNLD (R240): Loads 64 bytes into a bit-network pattern. -/
  | bnld (h : Hdr) (x : FmtS)
  /-- GEN (R241): Appends the 12-bit tag of the thread's tenancy. -/
  | gen (h : Hdr) (x : FmtS)
  /-- JMP (R231): Transfers to a block and passes the n newest positions. -/
  | jmp (h : Hdr) (x : FmtB)
  /-- BRT (R231): Transfers when the tested scalar is nonzero. -/
  | brt (h : Hdr) (x : FmtB)
  /-- BRF (R231): Transfers when the tested scalar is zero. -/
  | brf (h : Hdr) (x : FmtB)
  /-- CALL (R231): Saves the window in a frame and transfers to a block. -/
  | call (h : Hdr) (x : FmtB)
  /-- RET (R231): Restores the caller's window and appends the returned values. -/
  | ret (h : Hdr) (x : FmtB)
  /-- JMPI (R231): Transfers to an address held in a scalar. -/
  | jmpi (h : Hdr) (x : FmtB)
  /-- CALLI (R231): Calls the block at an address held in a scalar. -/
  | calli (h : Hdr) (x : FmtB)
  /-- LOOP (R233): Starts a hardware loop over its body with a trip count and passed values. -/
  | loop (h : Hdr) (x : FmtB)
  /-- LEND (R233): Ends a kernel iteration: takes the back edge, or exits and appends the final values. -/
  | lend (h : Hdr) (x : FmtB)
  /-- DONE (R235): Stops the thread for good. -/
  | done (h : Hdr) (x : FmtB)
  /-- BRK (R235): Raises cause 0x31 with a code. -/
  | brk (h : Hdr) (x : FmtB)
  /-- TRAP (R235): Raises cause 0x30 with a code. -/
  | trap (h : Hdr) (x : FmtB)
  /-- ALIVE (R235): Reloads the watchdog of a persistent launch. -/
  | alive (h : Hdr) (x : FmtB)
  /-- LDI (R182): Loads n bytes and appends them sign-extended. -/
  | ldi (h : Hdr) (x : FmtM)
  /-- LDN (R182): Loads n bytes and appends them zero-extended. -/
  | ldn (h : Hdr) (x : FmtM)
  /-- LDV (R182): Loads 64 or 512 bytes as a vector. -/
  | ldv (h : Hdr) (x : FmtM)
  /-- ST (R182): Stores n bytes of a scalar in the selected store mode. -/
  | st (h : Hdr) (x : FmtM)
  /-- STV (R182): Stores n bytes of a vector in the selected store mode. -/
  | stv (h : Hdr) (x : FmtM)
  /-- PREF (R184): Hints a translation of n bytes, with no access and no cause. -/
  | pref (h : Hdr) (x : FmtM)
  /-- SEAL (R185): Seals a tensor: shoots down its translations and waits for writes in flight. -/
  | seal (h : Hdr) (x : FmtM)
  /-- UNSEAL (R185): Waits until no replica is in use, then clears the seal. -/
  | unseal (h : Hdr) (x : FmtM)
  /-- LDQ (R183): Loads 512 bytes into a pending data-queue entry. -/
  | ldq (h : Hdr) (x : FmtM)
  /-- TLD (R187): Loads a run of tensor elements along dimension 0 as a vector. -/
  | tld (h : Hdr) (x : FmtT)
  /-- TST (R187): Stores a run of tensor elements along dimension 0. -/
  | tst (h : Hdr) (x : FmtT)
  /-- TLDQ (R187): Loads a run of tensor elements into a data-queue entry. -/
  | tldq (h : Hdr) (x : FmtT)
  /-- TGAT (R189): Gathers up to 64 scattered tensor elements. -/
  | tgat (h : Hdr) (x : FmtT)
  /-- TSCT (R189): Scatters up to 64 elements to tensor coordinates. -/
  | tsct (h : Hdr) (x : FmtT)
  /-- TINFO (R190): Appends a fact of a tensor descriptor from the descriptor cache. -/
  | tinfo (h : Hdr) (x : FmtT)
  /-- QPUSH (R193): Pushes a vector as a ready queue entry. -/
  | qpush (h : Hdr) (x : FmtQ)
  /-- QPOP (R193): Waits for the oldest entry, removes it and appends it. -/
  | qpop (h : Hdr) (x : FmtQ)
  /-- QPEEK (R193): Appends entry n once entries 0 to n are ready, without removing it. -/
  | qpeek (h : Hdr) (x : FmtQ)
  /-- QCNT (R193): Appends the occupied and ready counts of a queue. -/
  | qcnt (h : Hdr) (x : FmtQ)
  /-- QDROP (R193): Removes the n oldest entries once they are ready. -/
  | qdrop (h : Hdr) (x : FmtQ)
  /-- AMO_ADD (R198): Adds to a location atomically at its home and appends the old value. -/
  | amoAdd (h : Hdr) (x : FmtY)
  /-- AMO_MIN (R198): Stores the lesser value atomically and appends the old value. -/
  | amoMin (h : Hdr) (x : FmtY)
  /-- AMO_MAX (R198): Stores the greater value atomically and appends the old value. -/
  | amoMax (h : Hdr) (x : FmtY)
  /-- AMO_AND (R198): ANDs into a location atomically and appends the old value. -/
  | amoAnd (h : Hdr) (x : FmtY)
  /-- AMO_OR (R198): ORs into a location atomically and appends the old value. -/
  | amoOr (h : Hdr) (x : FmtY)
  /-- AMO_XOR (R198): XORs into a location atomically and appends the old value. -/
  | amoXor (h : Hdr) (x : FmtY)
  /-- AMO_SWAP (R198): Swaps a value into a location atomically and appends the old value. -/
  | amoSwap (h : Hdr) (x : FmtY)
  /-- AMO_CAS (R198): Writes a new value atomically if the location equals the expected value. -/
  | amoCas (h : Hdr) (x : FmtY)
  /-- AMO_FADD (R198): Adds an f32 value atomically, rounded once. -/
  | amoFadd (h : Hdr) (x : FmtY)
  /-- AMO_MADD (R198): Adds modulo q atomically. -/
  | amoMadd (h : Hdr) (x : FmtY)
  /-- FENCE (R201): Orders the thread's accesses at the given order and scope. -/
  | fence (h : Hdr) (x : FmtY)
  /-- FINC (R204): Increments a flag indivisibly at its home. -/
  | finc (h : Hdr) (x : FmtY)
  /-- FWAIT (R204): Waits until a flag has reached a value, counting forward around 2^32. -/
  | fwait (h : Hdr) (x : FmtY)
  /-- FSET (R204): Sets a flag to a value. -/
  | fset (h : Hdr) (x : FmtY)
  /-- FGET (R204): Appends a flag's value. -/
  | fget (h : Hdr) (x : FmtY)
  /-- SYNC (R202): Barrier over the domain members at one level, with release and acquire. -/
  | sync (h : Hdr) (x : FmtY)
  /-- EVSET (R207): Sets an event bit. -/
  | evset (h : Hdr) (x : FmtY)
  /-- EVWAIT (R207): Waits until an event bit is 1. -/
  | evwait (h : Hdr) (x : FmtY)
  /-- EVCLR (R207): Clears an event bit. -/
  | evclr (h : Hdr) (x : FmtY)
  /-- TZERO (R131): Zeroes a tile's data and scale strip and marks every bitmap bit. -/
  | tzero (h : Hdr) (x : FmtS)
  /-- TFILL (R132): Copies 32 KiB from a local window into a tile's data. -/
  | tfill (h : Hdr) (x : FmtS)
  /-- TROW (R131): Appends a tile data row as a vector. -/
  | trow (h : Hdr) (x : FmtS)
  /-- TWROW (R131): Writes a vector to a tile data row and clears that row-group's bitmap word. -/
  | twrow (h : Hdr) (x : FmtS)
  /-- TBMAP (R133): Recomputes a tile's bitmap from its data. -/
  | tbmap (h : Hdr) (x : FmtS)
  /-- TSCL (R131): Writes a vector into a quarter of a tile's scale strip. -/
  | tscl (h : Hdr) (x : FmtS)
  /-- LEASE (R137): Takes a claim on the group's array and waits for a grant. -/
  | lease (h : Hdr) (x : FmtS)
  /-- UNLEASE (R137): Waits for the core's plain matrix records, then ends the claim. -/
  | unlease (h : Hdr) (x : FmtS)
  /-- MWAIT (R137): Waits for the core's earlier matrix records and for reservations on its tiles. -/
  | mwait (h : Hdr) (x : FmtS)
  /-- MMUL (R141): Issues a matrix record computing C := C + A × Bᵀ over K-steps. -/
  | mmul (h : Hdr) (x : FmtR)
  /-- MMULC (R143): Issues a cooperative product over the arrays of several cores. -/
  | mmulc (h : Hdr) (x : FmtR)
  /-- MMOD (R147): Issues a modular matrix product record. -/
  | mmod (h : Hdr) (x : FmtR)
  /-- MTR (R148): Issues a record that transposes one 64 × 64 tile block. -/
  | mtr (h : Hdr) (x : FmtR)
  /-- CP (R249): Issues a copy record over a loop nest. -/
  | cp (h : Hdr) (x : FmtR)
  /-- CPCV (R252): Issues a copy record with conversion, scale and clamp. -/
  | cpcv (h : Hdr) (x : FmtR)
  /-- CPDZ (R253): Issues a record that expands one Zstandard frame. -/
  | cpdz (h : Hdr) (x : FmtR)
  /-- CPBK (R254): Issues a record that combines elements into bank memory with atomic updates. -/
  | cpbk (h : Hdr) (x : FmtR)
  /-- COLL (R255): Issues a collective record over the domain members at a level. -/
  | coll (h : Hdr) (x : FmtR)
  /-- MIG (R256): Issues a migration copy record with an optional deadline. -/
  | mig (h : Hdr) (x : FmtR)
  /-- MIGREP (R258): Issues a record that replicates a sealed tensor's pages on other dies. -/
  | migrep (h : Hdr) (x : FmtR)
  /-- NOTE (R259): Places completion markers in the named queues for an event bit. -/
  | note (h : Hdr) (x : FmtR)
  /-- DAWN (R301): Opens a partition. -/
  | dawn (h : Hdr) (x : FmtS)
  /-- DUSK (R265): Ends a tenancy by incrementing the partition's generation and appends a status. -/
  | dusk (h : Hdr) (x : FmtS)
  /-- SWEEP (R301): Starts a sweep pass for a partition and appends a status. -/
  | sweep (h : Hdr) (x : FmtS)
  /-- CTXSAVE (R304): Closes and stops a partition and saves its group contexts. -/
  | ctxsave (h : Hdr) (x : FmtS)
  /-- CTXREST (R304): Restores a partition's saved contexts into live or shadow places. -/
  | ctxrest (h : Hdr) (x : FmtS)
  /-- TLBI (R305): Shoots down translations of a handle on every die. -/
  | tlbi (h : Hdr) (x : FmtS)
  /-- TCINV (R305): Invalidates translated blocks that cover a byte range. -/
  | tcinv (h : Hdr) (x : FmtS)
  /-- TRET (R306): Resumes a thread stopped at a trap, optionally for a single step. -/
  | tret (h : Hdr) (x : FmtS)
  /-- SLOTLD (R307): Loads slot-table entries from an image for the next tick boundary. -/
  | slotld (h : Hdr) (x : FmtS)
  /-- CUTMARK (R308): Runs a consistent cut of a job across dies and packages. -/
  | cutmark (h : Hdr) (x : FmtS)
  /-- PULL (R308): Fetches a page from the migration source package and maps it. -/
  | pull (h : Hdr) (x : FmtS)
  /-- TDSYNC (R305): Appends whether every core has refreshed past a descriptor version. -/
  | tdsync (h : Hdr) (x : FmtS)
  /-- IDLE (R306): Waits until a notice is pending for the service core and takes it. -/
  | idle (h : Hdr) (x : FmtS)
  /-- HALT (R301): Removes the context of the target partition. -/
  | halt (h : Hdr) (x : FmtS)
  /-- RAW_ENTER (R309): Puts this die's service core in raw-access mode. -/
  | rawEnter (h : Hdr) (x : FmtS)
  /-- RAW_LEAVE (R309): Ends raw-access mode on this die. -/
  | rawLeave (h : Hdr) (x : FmtS)
  /-- RAW_LOCK (R309): Ends raw-access mode and refuses later entry until power cycle. -/
  | rawLock (h : Hdr) (x : FmtS)
  /-- PART (R302): Applies a partition configuration block. -/
  | part (h : Hdr) (x : FmtS)
  /-- NOP (R242): Does nothing; as a block head, it checks a sequential arrival. -/
  | nop (h : Hdr) (x : FmtS)
  /-- LIT (R242): Appends the following word as a scalar. -/
  | lit (h : Hdr) (x : FmtS) (v : Word)
  /-- PRIO (R242): Sets the thread's issue hint. -/
  | prio (h : Hdr) (x : FmtS)
  /-- NON_INSTRUCTION_WORD (R72): Execution reaches a word of major 0x0 or 0xF or an unassigned minor, such as the all-zero word, and raises cause 0x01 at its address. -/
  | nonInstructionWord (w : Word)
  /-- WDOG_FIRED_ANSWER (R230): Writing 1 to WDOG.FIRED answers cause 0x38 and reloads LEFT from TIMEOUT. -/
  | wdogFiredAnswer (core : Nat)
  /-- REGISTER_WRITE (R239): A write to a control register that has no row of its own. -/
  | registerWrite (id : BitVec 16) (v : Word)
  /-- BLOCK_TRANSLATION (R43): The transit finishes lowering a block and stores it in the translation cache, unless a shootdown landed. -/
  | blockTranslation (die part addr : Nat)
  /-- PAGE_WALK_COMPLETE (R272): A walk at the owner returns a TLB fill, which is discarded if its version is stale. -/
  | pageWalkComplete (core : Nat) (w : WalkReq)
  /-- QUEUE_ENTRY_READY (R192): Data returns for a pending queue entry and makes it ready, or finds a fault. -/
  | queueEntryReady (core q i : Nat)
  /-- READ_REPLY (R263): A read reply arrives at its requester and is dropped if the generation has changed. -/
  | readReply (core q i : Nat)
  /-- WRITE_APPLY_AT_HOME (R157): A write reaches its home and is applied, judged there by the tag rules. -/
  | writeApplyAtHome (src : Nat)
  /-- EARLY_EXPOSURE (R157): A die exposes an .e write to its own agents once the earlier writes are visible. -/
  | earlyExposure (die seq : Nat)
  /-- REMOTE_ATOMIC_AT_HOME (R199): An atomic arrives at its home, is performed indivisibly, and its old value is returned. -/
  | remoteAtomicAtHome (tid : Nat)
  /-- WRITE_ACK (R169): A home's acknowledgement of an applied write reaches the writer. -/
  | writeAck (src seq : Nat)
  /-- ACK_TIMEOUT (R169): After 64 ticks without an acknowledgement, the write is retried on another path or declared lost. -/
  | ackTimeout (src seq : Nat)
  /-- CLOCK_CHANNEL_EXCHANGE (R160): Each slot, the dies exchange their applied-write counts on the clock channel. -/
  | clockChannelExchange
  /-- ATOMIC_PAGE_MIGRATE (R336): A page whose atomics come from one other die moves to owner mode at that die. -/
  | atomicPageMigrate (die frame : Nat)
  /-- ATOMIC_PAGE_RETURN (R336): An access from another die returns an owner-mode page to its home. -/
  | atomicPageReturn (die frame byDie : Nat)
  /-- BASE_DIE_REQUEST (R340): A memory-port request on a lane is served by the base die. -/
  | baseDieRequest (die lane : Nat)
  /-- WAIT_CONDITION_MET (R208): A waiting fwait, evwait, queue operation or full-queue push returns once its condition holds. -/
  | waitConditionMet (tid : Nat)
  /-- SYNC_BARRIER_RELEASE (R202): Every member's n-th sync at a level has arrived and the barrier returns. -/
  | syncBarrierRelease (part level key : Nat)
  /-- SEAL_COMPLETE (R165): All writes that passed translation are applied and seal completes as a release. -/
  | sealComplete (tid : Nat)
  /-- UNSEAL_COMPLETE (R166): No replica remains in use; the replicas are discarded and the seal is cleared. -/
  | unsealComplete (tid : Nat)
  /-- LEASE_GRANT (R136): The array is granted to the oldest waiting claimant, which begins a tenure. -/
  | leaseGrant (group : Nat)
  /-- TENURE_TIMEOUT (R136): A tenure ends after 4,096 cycles without a running record. -/
  | tenureTimeout (group : Nat)
  /-- RECORD_START (R243): An engine starts a record that its queue head, the range checker and a free context allow, and checks its words. -/
  | recordStart (core rid : Nat)
  /-- RECORD_ELEMENT (R244): A record performs one element operation of its loop nest. -/
  | recordElement (core rid : Nat)
  /-- RECORD_COMPLETE (R243): A record finishes its nest, performs its release and frees its context. -/
  | recordComplete (core rid : Nat)
  /-- MIG_DEADLINE_MISS (R256): A mig deadline passes unfinished; SLIP.COUNT increments and may raise cause 0x39. -/
  | migDeadlineMiss (core rid : Nat)
  /-- MMULC_ARRAY_GRANT (R144): The leader is granted the next participant group's array in ascending order. -/
  | mmulcArrayGrant (core rid : Nat)
  /-- MATRIX_BLOCK_COMPLETE (R145): An array finishes a block, writes it to its owner, and then steals or is released. -/
  | matrixBlockComplete (core rid array : Nat)
  /-- NOTE_COMPLETE (R221): Every named queue reaches its marker, and the combiner sets the event bit. -/
  | noteComplete (core rid : Nat)
  /-- LAUNCH_CONSUME (R211): Dispatch takes the next launch record when the launch flag differs from Consumed. -/
  | launchConsume (part : Nat)
  /-- DISPATCH (R214): At a schedule-tick boundary, dispatch chooses eligible launches by priority. -/
  | dispatch (part : Nat)
  /-- LAUNCH_START (R215): A chosen launch enters its threads on every placed core in the next tick. -/
  | launchStart (part launch : Nat)
  /-- LAUNCH_COMPLETE (R216): All threads are done and all records and entries have settled; the SET bits are written with release. -/
  | launchComplete (part launch : Nat)
  /-- SLICE_END (R224): A partition's slice ends at a tick boundary, and the device decides whether to exchange. -/
  | sliceEnd (part : Nat)
  /-- SOFT_PREEMPT_DRAIN (R226): The loop engine drains kernel iterations with stage 0 off, keeps the drained values and stops. -/
  | softPreemptDrain (tid : Nat)
  /-- SOFT_STOP_GRACE_EXPIRY (R227): A soft stop not finished within 50 µs is completed as hard pre-emption. -/
  | softStopGraceExpiry (part : Nat)
  /-- GANG_SWITCH (R227): Once the cores are stopped and settled, the live context is exchanged with the shadow bank. -/
  | gangSwitch (part : Nat)
  /-- PARTITION_RESUME (R228): An incoming partition, live on all its groups, resumes its threads at a boundary. -/
  | partitionResume (part : Nat)
  /-- ZERO_SLICE_EXCHANGE (R228): A partition with SLICE.LEN 0 and no running launch is exchanged out at the next boundary. -/
  | zeroSliceExchange (part : Nat)
  /-- WATCHDOG_UNIT_TICK (R230): LEFT decrements after 1,024 live schedule ticks. -/
  | watchdogUnitTick (part launch : Nat)
  /-- WATCHDOG_EXPIRY (R230): LEFT reaches 0; FIRED is set, a 0x38 notice is written and LEFT is loaded with GRACE. -/
  | watchdogExpiry (core : Nat)
  /-- WATCHDOG_REMOVAL (R230): LEFT reaches 0 again with FIRED still set, and the context is removed with cause 0x3F. -/
  | watchdogRemoval (core : Nat)
  /-- REMOVAL_DRAIN_END (R288): After 4,096 cycles of empty fetch, the removal flushes the engine queues of the partition. -/
  | removalDrainEnd (part : Nat)
  /-- PENDING_CAUSE_TAKEN (R284): A thread takes a pending or record cause at an instruction boundary. -/
  | pendingCauseTaken (tid : Nat)
  /-- SINGLE_STEP (R286): After one stepped instruction, the thread takes cause 0x32. -/
  | singleStep (tid : Nat)
  /-- SWEEP_AUTO_START (R267): The device starts a sweep pass when G[p] − L[p] reaches 192. -/
  | sweepAutoStart (part : Nat)
  /-- SWEEP_PASS_COMPLETE (R267): A sweep pass finishes every store, sets L[p] and sends notices. -/
  | sweepPassComplete (part : Nat)
  /-- SLOT_TABLE_UPDATE (R307): Loaded slot-table entries take effect at the next tick boundary, and circuits are recomputed. -/
  | slotTableUpdate (die : Nat)
  /-- FLIT_ARRIVAL (R330): A flit arrives at a router input and is forwarded or buffered by class. -/
  | flitArrival (die port : Nat) (f : Flit)
  /-- LINK_FLIT_RETRY (R294): A flit that fails its check is retried on its link. -/
  | linkFlitRetry (port : Nat)
  /-- PORT_LOST (R294): A port that cannot deliver after retraining is taken out of use and logged. -/
  | portLost (port : Nat)
  /-- HOST_PACKET_INGRESS (R337): A host packet is mapped through the ingress table to a tag, or dropped with an error. -/
  | hostPacketIngress (port : Nat) (k : HostPacket)
  /-- EVENT_READ (R338): The event service returns the 256 event bits with acquire. -/
  | eventRead (tenancy : BitVec 16)
  /-- EVENT_WAIT (R338): The event service holds a wait on one bit. -/
  | eventWait (tenancy : BitVec 16) (bit : BitVec 8)
  /-- EVENT_WAIT_REPLY (R338): A held event wait is answered once its bit is 1, or with an error at dusk. -/
  | eventWaitReply (part i : Nat)
  /-- EVENT_SET (R338): The event service sets a bit with release. -/
  | eventSet (tenancy : BitVec 16) (bit : BitVec 8)
  /-- EVENT_CLEAR (R338): The event service clears a bit with release. -/
  | eventClear (tenancy : BitVec 16) (bit : BitVec 8)
  /-- SPDM_MEASUREMENTS (R275): A partition answers an SPDM MEASUREMENTS request with ECDSA and HSS signatures. -/
  | spdmMeasurements (part : Nat) (transcript : List Byte)
  /-- SPDM_KEY_DELIVERY (R277): Keys in an SPDM secured session are decrypted and written under the current tag. -/
  | spdmKeyDelivery (part addr : Nat) (sealedKeys : List Byte)
  /-- FIRMWARE_LOAD (R296): The host loads the firmware image, and it runs only if both signatures verify. -/
  | firmwareLoad (image : List Byte)
  /-- HEALTH_REPORT_READ (R295): The host reads the health report through the management class. -/
  | healthReportRead (die : Nat)
  /-- ERROR_LOG_READ (R293): The host reads the error log through the management class. -/
  | errorLogRead (die : Nat)
  /-- COUNTER_BLOCK_READ (R342): The host reads a stack's counter block through the management class. -/
  | counterBlockRead (die stack : Nat)
  /-- REGULATOR_SOURCE_SELECT (R344): The host chooses the package that sources the regulator. -/
  | regulatorSourceSelect (package : BitVec 16)
  /-- PACKAGE_NUMBER_SET (R347): The host sets the package's fabric package number at bring-up. -/
  | packageNumberSet (n : BitVec 16)
  /-- CUT_MARKER (R290): A cutmark marker reaches a die, which runs to the cut counts and stops the job. -/
  | cutMarker (die : Nat) (job : BitVec 16)
  /-- PATROL_SCRUB (R292): Each base die scrubs every line of its stack once every 24 hours. -/
  | patrolScrub (die line : Nat)
  /-- SOFT_ERROR_CORRECTED (R292): A correctable error is repaired in place, counted and logged. -/
  | softErrorCorrected (die : Nat) (l : ErrLoc)
  /-- UNCORRECTABLE_ERROR (R292): Data found uncorrectable is marked poisoned and logged. -/
  | uncorrectableError (l : ErrLoc)
  /-- POWER_ON (R345): Bring-up trains the stacks and ports, tags every line empty and waits for firmware. -/
  | powerOn
  /-- VCORE_LIMIT (R343): VCORE reaches its limit and the arithmetic clock is lowered in steps. -/
  | vcoreLimit
  /-- VMEM_LIMIT (R343): VMEM reaches its limit and the base dies admit fewer requests per lane. -/
  | vmemLimit
  /-- VLINK_LIMIT (R343): VLINK reaches its limit and fabric ports are taken out of use, highest first. -/
  | vlinkLimit
  /-- VAUX_LIMIT (R343): VAUX reaches its limit and the arithmetic clock is lowered. -/
  | vauxLimit
  /-- TDP_LIMIT (R343): Total draw reaches 2,400 W and the arithmetic clock is lowered. -/
  | tdpLimit
  /-- JUNCTION_TEMP_LIMIT (R343): The junction-temperature limit lowers the arithmetic clock. -/
  | junctionTempLimit
  /-- CRITICAL_TEMP (R343): At the critical temperature, every partition is ended as for a firmware failure. -/
  | criticalTemp
  /-- LINK_RETRAINED (R294): A fabric link that failed its checks retrains successfully, goes back into use and is logged with kind 3. -/
  | linkRetrained (port : Nat)
  /-- SPDM_SECURED_SESSION (R275): A partition's SPDM responder establishes a secured session with ECDHE on secp384r1, through which keys can later be delivered. -/
  | spdmSecuredSession (part : Nat) (exchange : List Byte)
  /-- OPEN_SLOT_GRANT (R333): In each slot, each router output that no circuit flit uses grants its slot to the oldest head flit among the class buffers of its inputs. -/
  | openSlotGrant (die out : Nat)
deriving DecidableEq, Repr

end Sys2Proof
end

