-- ==== Sys2Proof/WellFormed.lean ====
section
/-! DEFINITION. Well-formed instructions: what R72 asks of a word on its own. The checks that need the place of a word
(stage, loop pairing, block heads: R53, R56) are made where it is reached. -/

namespace Sys2Proof

/-- Why a word is no instruction (R72). Every reason is cause 0x01. -/
inductive Reject where
  /-- GRD 96-126, or a GRD or STG that `lend` does not take. -/
  | guard
  /-- GSN 1 with GRD 127. -/
  | sense
  /-- An operand field: not 0x000 where unused, NEG or ABS where not accepted, or KND 1 where excluded. -/
  | operand
  /-- CLP or SCL nonzero where they do not apply. -/
  | scale
  /-- A TYP or type pair that the instruction does not accept. -/
  | typ
  /-- A value outside the range of its field, or reserved. -/
  | range
  /-- SPACE 11-31, or an override of a descriptor whose SPACE is 0. -/
  | space
  /-- The words of a record or of `lit` are not all there (R68). -/
  | words
  /-- No word: a step of the machine. -/
  | event
deriving DecidableEq, Repr

/-- The first check that does not hold. -/
def firstBad : List (Bool × Reject) → Option Reject
  | [] => none
  | (ok, r) :: l => if ok then firstBad l else some r

/-- The type codes of R69. -/
def tyOf (c : BitVec 7) : Option Ty :=
  match c.toNat with
  | 0x00 => some .i4 | 0x01 => some .n4 | 0x02 => some .i8 | 0x03 => some .n8
  | 0x04 => some .i16 | 0x05 => some .n16 | 0x06 => some .i32 | 0x07 => some .n32
  | 0x08 => some .i64 | 0x09 => some .n64 | 0x0C => some .m64
  | 0x10 => some .f16 | 0x11 => some .bf16 | 0x12 => some .f32
  | 0x20 => some .mx4 | 0x21 => some .mx6 | 0x22 => some .mx8 | 0x23 => some .mx10
  | 0x24 => some .mx12 | 0x25 => some .mx14 | 0x26 => some .mx16
  | _ => none

/-- The lane or container width of a type in bits (R75, R87). -/
def Ty.width : Ty → Nat
  | .i4 | .n4 | .mx4 => 4
  | .i8 | .n8 | .mx6 | .mx8 => 8
  | .i16 | .n16 | .f16 | .bf16 | .mx10 | .mx12 | .mx14 | .mx16 => 16
  | .i32 | .n32 | .f32 => 32
  | .i64 | .n64 | .m64 => 64

/-- The floating-point types (R78). -/
def Ty.isFloat : Ty → Bool
  | .f16 | .bf16 | .f32 => true
  | _ => false

/-- The microscaling formats (R87). -/
def Ty.isMx : Ty → Bool
  | .mx4 | .mx6 | .mx8 | .mx10 | .mx12 | .mx14 | .mx16 => true
  | _ => false

/-- Z and F of major 0x1 (R95). -/
def tZ32 : List Ty := [.i64, .n64, .i32, .n32]
def tF32 : List Ty := [.f32]
def tZF32 : List Ty := [.i64, .n64, .i32, .n32, .f32]
/-- Z, Z4 and F of major 0x2 (R109). -/
def tZV : List Ty := [.i8, .n8, .i16, .n16, .i32, .n32, .i64, .n64]
def tZ4 : List Ty := [.i4, .n4, .i8, .n8, .i16, .n16, .i32, .n32, .i64, .n64]
def tF : List Ty := [.f16, .bf16, .f32]
def tZVF : List Ty := tZV ++ tF
def tZ4F : List Ty := tZ4 ++ tF
/-- The types of `vdiv` (R109), `vperm` (R118), `vdot4` (R122) and major 0x4. -/
def tDivV : List Ty := [.i32, .n32, .i64, .n64] ++ tF
def tPerm : List Ty := tZVF
def tDot : List Ty := [.i8, .n8]
def tM64 : List Ty := [.m64]
def tMx : List Ty := [.mx4, .mx6, .mx8, .mx10, .mx12, .mx14, .mx16]

/-- The code `c` names a type of the set. -/
def tyIn (s : List Ty) (c : BitVec 7) : Bool :=
  match tyOf c with
  | some t => decide (t ∈ s)
  | none => false

/-- The header (R46): GRD 0-95 or 127, and GSN 0 with GRD 127. -/
def hdr (h : Hdr) : List (Bool × Reject) :=
  [(h.grd.toNat < 96 ∨ h.grd = 127, .guard), (h.grd ≠ 127 ∨ h.gsn = 0, .sense)]

/-- An operand field: 0x000 if unused, NEG and ABS only where accepted (R48, R49). -/
def opOk (used signs : Bool) (f : OpField) : Bool :=
  if used then signs || (f.extractLsb' 7 2 == 0) else f == 0

/-- Format A with types `s`, `cs`: CLP and SCL apply, `sg`: NEG and ABS are accepted, `n` operands (R57, R95, R109). -/
def fmtA (h : Hdr) (x : FmtA) (s : List Ty) (cs sg : Bool) (n : Nat) : List (Bool × Reject) :=
  hdr h |>.append [(opOk (1 ≤ n) sg x.opa, .operand), (opOk (2 ≤ n) sg x.opb, .operand), (opOk (3 ≤ n) sg x.opc, .operand),
    (cs || (x.clp = 0 ∧ x.scl = 0), .scale), (tyIn s x.typ, .typ)]

/-- `bnet` and `vbnet`: TYP is the pattern (R57, R103). -/
def fmtABits (h : Hdr) (x : FmtA) : List (Bool × Reject) :=
  hdr h |>.append [(opOk true false x.opa, .operand), (x.opb = 0 ∧ x.opc = 0, .operand), (x.clp = 0 ∧ x.scl = 0, .scale),
    (x.typ.toNat < 8, .typ)]

/-- The pairs `to`, `from` of `cvt` (R104), `vcvt` (R112), `vwid` (R113) and `vpack` (R114). -/
def cvtPair (t f : Ty) : Bool := decide (t ∈ tZF32) && decide (f ∈ tZF32)
def vcvtPair (t f : Ty) : Bool := decide (t ∈ tZ4F) && decide (f ∈ tZ4F) && t.width == f.width
def vwidPair (t f : Ty) : Bool :=
  decide (t ∈ tZVF) && decide (f ∈ tZ4F) && f.width ≤ 32 && f != .f32 && (t.width == 2 * f.width || t.width == 4 * f.width)
/-- `vpack` (R114) states only that the source is twice or four times as wide. The model takes the integer and floating types of
the other conversions on both sides and no other type (DESIGN CHOICE, log 85). -/
def vpackPair (t f : Ty) : Bool :=
  decide (t ∈ tZ4F) && decide (f ∈ tZ4F) && (f.width == 2 * t.width || f.width == 4 * t.width)

/-- Conversions: TYP is `to`, OPB[6:0] is `from`, OPB[8:7] is 0 (R57, R104). -/
def fmtACvt (h : Hdr) (x : FmtA) (pair : Ty → Ty → Bool) : List (Bool × Reject) :=
  hdr h |>.append [(x.opb.extractLsb' 7 2 = 0 ∧ x.opc = 0, .operand),
    (match tyOf x.typ, tyOf (x.opb.extractLsb' 0 7) with
      | some t, some f => pair t f
      | _, _ => false, .typ)]

/-- `vmxq` (R119). -/
def fmtAMxq (h : Hdr) (x : FmtA) : List (Bool × Reject) :=
  hdr h |>.append [(x.opb.extractLsb' 7 2 = 0 ∧ x.opc = 0, .operand), (x.clp = 0 ∧ x.scl = 0, .scale),
    (tyIn tMx x.typ && tyIn tF (x.opb.extractLsb' 0 7), .typ)]

/-- `vmxdq` (R120). -/
def fmtAMxdq (h : Hdr) (x : FmtA) : List (Bool × Reject) :=
  hdr h |>.append [(opOk true false x.opa && opOk true false x.opb, .operand), (x.opc.extractLsb' 7 2 = 0, .operand),
    (tyIn tF x.typ && tyIn tMx (x.opc.extractLsb' 0 7), .typ)]

/-- `vbmap` (R121): OPC is an operand in the 4-bit forms only. -/
def fmtABmap (h : Hdr) (x : FmtA) : List (Bool × Reject) :=
  hdr h |>.append [(opOk true false x.opa && opOk true false x.opb, .operand),
    (opOk (tyIn [.i4, .n4, .mx4] x.typ) false x.opc, .operand), (x.clp = 0 ∧ x.scl = 0, .scale),
    (tyIn (tZ4F ++ tMx) x.typ, .typ)]

/-- `vcvtsr` (R115). -/
def fmtACvtsr (h : Hdr) (x : FmtA) : List (Bool × Reject) :=
  hdr h |>.append [(opOk true false x.opa && x.opa.getLsbD 6 == false, .operand), (opOk true false x.opb, .operand),
    (x.opc = 0, .operand), (x.clp = 0 ∧ x.scl = 0, .scale), (tyIn [.bf16] x.typ, .typ)]

/-- Major 0x4 (R57, R151): SCL[2:0] is the modulus slot. -/
def fmtAMod (h : Hdr) (x : FmtA) (sg : Bool) (n : Nat) : List (Bool × Reject) :=
  hdr h |>.append [(opOk (1 ≤ n) sg x.opa, .operand), (opOk (2 ≤ n) sg x.opb, .operand), (opOk (3 ≤ n) sg x.opc, .operand),
    (x.clp = 0 ∧ x.scl.extractLsb' 3 2 = 0, .scale), (tyIn tM64 x.typ, .typ)]

/-- Format I (R58, R107). -/
def fmtI (h : Hdr) (x : FmtI) (src : Bool) : List (Bool × Reject) :=
  hdr h |>.append [(opOk src false x.opa, .operand)]

/-- Format B (R59): OPA used or not, NPS 0-8. -/
def fmtB (h : Hdr) (x : FmtB) (src : Bool) : List (Bool × Reject) :=
  hdr h |>.append [(opOk src false x.opa, .operand), (x.nps.toNat ≤ 8, .range)]

/-- Format M (R60): OPB used or not, the orders and sizes accepted. -/
def fmtM (h : Hdr) (x : FmtM) (data : Bool) (ords sizes : List Nat) : List (Bool × Reject) :=
  hdr h |>.append [(opOk true false x.opa, .operand), (opOk data false x.opb, .operand), (x.rsv = 0, .range),
    (x.size.toNat ∈ sizes, .range), (x.ord.toNat ∈ ords, .range), (x.scp.toNat ≤ 5, .range)]

/-- `ldq` (R60, R183): OPB[2:0] is the queue. -/
def fmtMQueue (h : Hdr) (x : FmtM) : List (Bool × Reject) :=
  hdr h |>.append [(opOk true false x.opa, .operand), (x.opb.toNat < 8, .operand), (x.rsv = 0, .range),
    (x.size = 5, .range), (x.ord.toNat ∈ [0, 1, 4], .range), (x.scp.toNat ≤ 5, .range), (x.mca = 0, .range)]

/-- Format T (R61). -/
def fmtT (h : Hdr) (x : FmtT) (data : Bool) : List (Bool × Reject) :=
  hdr h |>.append [(opOk true false x.opa, .operand), (opOk true false x.opb, .operand), (opOk data false x.opc, .operand)]

/-- `tldq` (R61, R187): OPC[2:0] is the queue. -/
def fmtTQueue (h : Hdr) (x : FmtT) : List (Bool × Reject) :=
  hdr h |>.append [(opOk true false x.opa, .operand), (opOk true false x.opb, .operand), (x.opc.toNat < 8, .operand),
    (x.mca = 0, .range)]

/-- Format Q (R63): OPB and the reserved field are 0. -/
def fmtQ (h : Hdr) (x : FmtQ) (data : Bool) : List (Bool × Reject) :=
  hdr h |>.append [(opOk data false x.opa, .operand), (x.opb = 0, .operand), (x.rsv = 0, .range)]

/-- Atomics (R62, R198): OPC is used by `cas` and `madd`. -/
def fmtYAmo (h : Hdr) (x : FmtY) (s : List Ty) (third : Bool) : List (Bool × Reject) :=
  hdr h |>.append [(opOk true false x.opa, .operand), (opOk true false x.opb, .operand), (opOk third false x.opc, .operand),
    (x.ord.toNat ≤ 4, .range), (x.scp.toNat ≤ 5, .range), (tyIn s x.typ, .typ)]

/-- Flag instructions (R62, R204): OPA is the group if RMT = 1; OPB holds the value if IMM7 is 0. -/
def fmtYFlag (h : Hdr) (x : FmtY) (ords : List Nat) (val : Bool) : List (Bool × Reject) :=
  hdr h |>.append [(opOk (x.opc.getLsbD 8) false x.opa, .operand), (opOk (val && x.typ == 0) false x.opb, .operand),
    (val || x.typ == 0, .range), (x.ord.toNat ∈ ords, .range), (x.scp.toNat ≤ 5, .range)]

/-- Format Y with no operand and TYP 0: `fence`, `sync`, events (R62, R201, R202, R207). -/
def fmtYBare (h : Hdr) (x : FmtY) (ords : List Nat) : List (Bool × Reject) :=
  hdr h |>.append [(x.opa = 0 ∧ x.opb = 0, .operand), (x.typ = 0, .range), (x.ord.toNat ∈ ords, .range)]

/-- Format S (R64): which operands are used and the greatest DST. -/
def fmtS (h : Hdr) (x : FmtS) (a b : Bool) (dst : Nat) : List (Bool × Reject) :=
  hdr h |>.append [(opOk a false x.opa, .operand), (opOk b false x.opb, .operand), (x.dst.toNat ≤ dst, .range)]

/-- A block head's declaration, or a plain `nop` (R52). -/
def headOk (aux : BitVec 16) : Bool :=
  if aux.getLsbD 15 then
    aux.extractLsb' 12 3 == 0 && (aux.extractLsb' 8 4).toNat ≤ 8
      && (aux.extractLsb' 0 8).toNat < 2 ^ (aux.extractLsb' 8 4).toNat
  else aux == 0

/-- The control-register ids (R310). -/
def csrIds : List Nat :=
  [0x01, 0x02, 0x03, 0x10, 0x11, 0x12, 0x13, 0x20, 0x21, 0x22, 0x23, 0x24, 0x25, 0x26, 0x27, 0x28, 0x29, 0x2A, 0x2B,
    0x40, 0x41, 0x42]

/-- A record's lead word (R65, R67): OVk at or above OVN is 0, no NEG or ABS. -/
def recLead (h : Hdr) (r : FmtR) : List (Bool × Reject) :=
  hdr h |>.append [(r.scp.toNat ≤ 5, .range), (opOk (1 ≤ r.ovn.toNat) false r.ov0, .operand),
    (opOk (2 ≤ r.ovn.toNat) false r.ov1, .operand), (opOk (3 ≤ r.ovn.toNat) false r.ov2, .operand)]

/-- A record with descriptors: SPACE 0-10, and no override of a SPACE 0 descriptor (R66, R67, R72) (DEDUCED, log 29). -/
def rec (h : Hdr) (r : FmtR) : List (Bool × Reject) :=
  recLead h r |>.append [((r.w2.extractLsb' 59 5).toNat ≤ 10 ∧ (r.w4.extractLsb' 59 5).toNat ≤ 10
      ∧ (r.w6.extractLsb' 59 5).toNat ≤ 10, .space),
    (¬(1 ≤ r.ovn.toNat ∧ r.w2.extractLsb' 59 5 = 0), .space),
    (¬(2 ≤ r.ovn.toNat ∧ r.w4.extractLsb' 59 5 = 0), .space),
    (¬(3 ≤ r.ovn.toNat ∧ r.w6.extractLsb' 59 5 = 0), .space)]

/-- The word's major and minor are assigned (R70, R71). -/
def assigned (w : Word) : Bool :=
  let n := (w.extractLsb' 52 8).toNat
  match (w.extractLsb' 60 4).toNat with
  | 1 => n ≤ 28
  | 2 => n ≤ 38
  | 3 => n ≤ 9
  | 4 => n ≤ 7
  | 5 => n ≤ 19
  | 6 => n ≤ 12
  | 7 => n ≤ 8
  | 8 => n ≤ 5
  | 9 => n ≤ 4
  | 10 => n ≤ 18
  | 11 => n ≤ 8
  | 12 => n ∈ [0x0, 0x1, 0x2, 0x3, 0x10, 0x11, 0x12, 0x13, 0x18, 0x1c, 0x1d, 0x1f]
  | 13 => n ≤ 15
  | 14 => n ≤ 2
  | _ => false

/-- The first rule of R72 that the instruction breaks on its own, or `none`. -/
def check : Instr → Option Reject
  | .add h x => firstBad (fmtA h x tZF32 true true 2)
  | .sub h x => firstBad (fmtA h x tZF32 true true 2)
  | .mul h x => firstBad (fmtA h x tZF32 true true 2)
  | .mulh h x => firstBad (fmtA h x tZ32 false true 2)
  | .div h x => firstBad (fmtA h x tZF32 true true 2)
  | .rem h x => firstBad (fmtA h x tZ32 false true 2)
  | .mad h x => firstBad (fmtA h x tZF32 true true 3)
  | .and_ h x => firstBad (fmtA h x tZ32 false false 2)
  | .or_ h x => firstBad (fmtA h x tZ32 false false 2)
  | .xor_ h x => firstBad (fmtA h x tZ32 false false 2)
  | .andn h x => firstBad (fmtA h x tZ32 false false 2)
  | .shl h x => firstBad (fmtA h x tZ32 false false 2)
  | .shr h x => firstBad (fmtA h x tZ32 false false 2)
  | .sar h x => firstBad (fmtA h x tZ32 false false 2)
  | .rotl h x => firstBad (fmtA h x tZ32 false false 2)
  | .clz h x => firstBad (fmtA h x tZ32 false false 1)
  | .ctz h x => firstBad (fmtA h x tZ32 false false 1)
  | .popc h x => firstBad (fmtA h x tZ32 false false 1)
  | .min h x => firstBad (fmtA h x tZF32 false true 2)
  | .max h x => firstBad (fmtA h x tZF32 false true 2)
  | .cmp3 h x => firstBad (fmtA h x tZF32 false true 2)
  | .sel h x => firstBad (fmtA h x tZF32 false false 3)
  | .bfx h x => firstBad (fmtA h x tZ32 false false 2)
  | .bfi h x => firstBad (fmtA h x tZ32 false false 3)
  | .bnet h x => firstBad (fmtABits h x)
  | .cvt h x => firstBad (fmtACvt h x cvtPair)
  | .sqrt h x => firstBad (fmtA h x tF32 true true 1)
  | .lea h x => firstBad (fmtA h x tZ32 false false 2)
  | .mov h x => firstBad (fmtA h x tZF32 true true 1)
  | .vadd h x => firstBad (fmtA h x tZ4F true true 2)
  | .vsub h x => firstBad (fmtA h x tZ4F true true 2)
  | .vmul h x => firstBad (fmtA h x tZVF true true 2)
  | .vmulh h x => firstBad (fmtA h x tZV false true 2)
  | .vmad h x => firstBad (fmtA h x tZVF true true 3)
  | .vmin h x => firstBad (fmtA h x tZ4F false true 2)
  | .vmax h x => firstBad (fmtA h x tZ4F false true 2)
  | .vand h x => firstBad (fmtA h x tZ4 false false 2)
  | .vor h x => firstBad (fmtA h x tZ4 false false 2)
  | .vxor h x => firstBad (fmtA h x tZ4 false false 2)
  | .vshl h x => firstBad (fmtA h x tZ4 false false 2)
  | .vshr h x => firstBad (fmtA h x tZ4 false false 2)
  | .vsar h x => firstBad (fmtA h x tZ4 false false 2)
  | .vsel h x => firstBad (fmtA h x tZ4F false false 3)
  | .vdiv h x => firstBad (fmtA h x tDivV true true 2)
  | .vsqrt h x => firstBad (fmtA h x tF true true 1)
  | .vrcp h x => firstBad (fmtA h x tF true true 1)
  | .vrsqrt h x => firstBad (fmtA h x tF true true 1)
  | .vexp2 h x => firstBad (fmtA h x tF true true 1)
  | .vlog2 h x => firstBad (fmtA h x tF true true 1)
  | .vcvt h x => firstBad (fmtACvt h x vcvtPair)
  | .vwid h x => firstBad (fmtACvt h x vwidPair)
  | .vred h x => firstBad (fmtA h x tZ4F true true 1)
  | .vscan h x => firstBad (fmtA h x tZ4F true true 1)
  | .vperm h x => firstBad (fmtA h x tPerm false false 3)
  | .vbcast h x => firstBad (fmtA h x tZ4F false false 2)
  | .vslide h x => firstBad (fmtA h x tZ4F false false 3)
  | .vtrn h x => firstBad (fmtA h x tZ4F false false 2)
  | .vpack h x => firstBad (fmtACvt h x vpackPair |>.append [(x.opa.getLsbD 6 = false, .operand)])
  | .vmxq h x => firstBad (fmtAMxq h x)
  | .vmxdq h x => firstBad (fmtAMxdq h x)
  | .vbmap h x => firstBad (fmtABmap h x)
  | .vbnet h x => firstBad (fmtABits h x)
  | .vpopc h x => firstBad (fmtA h x tZ4 false false 1)
  | .vclz h x => firstBad (fmtA h x tZ4 false false 1)
  | .vdot4 h x => firstBad (fmtA h x tDot true true 3)
  | .vmov h x => firstBad (fmtA h x tZ4F true true 1)
  | .vcvtsr h x => firstBad (fmtACvtsr h x)
  | .vli h x => firstBad (fmtA h x tZVF true true 1)
  | .li h x => firstBad (fmtI h x false)
  | .lih h x => firstBad (fmtI h x true)
  | .addi h x => firstBad (fmtI h x true)
  | .andi h x => firstBad (fmtI h x true)
  | .ori h x => firstBad (fmtI h x true)
  | .xori h x => firstBad (fmtI h x true)
  | .shli h x => firstBad (fmtI h x true)
  | .shri h x => firstBad (fmtI h x true)
  | .sari h x => firstBad (fmtI h x true)
  | .lf h x => firstBad (fmtI h x false)
  | .mqadd h x => firstBad (fmtAMod h x true 2)
  | .mqsub h x => firstBad (fmtAMod h x true 2)
  | .mqmul h x => firstBad (fmtAMod h x true 2)
  | .mqmac h x => firstBad (fmtAMod h x true 3)
  | .mqred h x => firstBad (fmtAMod h x true 1)
  | .mqbct h x => firstBad (fmtAMod h x true 3)
  | .mqbgs h x => firstBad (fmtAMod h x true 3)
  | .mqset h x => firstBad (fmtAMod h x false 1)
  | .sget h x => firstBad (fmtS h x false false 0 |>.append [(x.aux.toNat < 64, .range)])
  | .sput h x => firstBad (fmtS h x true false 63 |>.append [(x.aux = 0, .range)])
  | .vget h x => firstBad (fmtS h x false false 0 |>.append [(x.aux.toNat < 64, .range)])
  | .vput h x => firstBad (fmtS h x true false 63 |>.append [(x.aux = 0, .range)])
  | .keep h x => firstBad (fmtS h x true false 0 |>.append [(1 ≤ x.aux.toNat ∧ x.aux.toNat ≤ 8, .range), (x.opa.getLsbD 6 = false, .operand)])
  | .pcmp h x => firstBad (fmtS h x true true 95 |>.append [(x.aux.toNat < 2048 ∧ x.aux.extractLsb' 0 4 < 8#4, .range),
    (tyIn tZ4F (x.aux.extractLsb' 4 7), .typ)])
  | .pset h x => firstBad (fmtS h x false false 95 |>.append [(x.aux.toNat < 2, .range)])
  | .pand h x => firstBad (fmtS h x false false 95 |>.append [((x.aux.extractLsb' 0 8).toNat < 96 ∧ (x.aux.extractLsb' 8 8).toNat < 96, .range)])
  | .por h x => firstBad (fmtS h x false false 95 |>.append [((x.aux.extractLsb' 0 8).toNat < 96 ∧ (x.aux.extractLsb' 8 8).toNat < 96, .range)])
  | .pxor h x => firstBad (fmtS h x false false 95 |>.append [((x.aux.extractLsb' 0 8).toNat < 96 ∧ (x.aux.extractLsb' 8 8).toNat < 96, .range)])
  | .pnot h x => firstBad (fmtS h x false false 95 |>.append [(x.aux.toNat < 96, .range)])
  | .pmov h x => firstBad (fmtS h x false false 95 |>.append [(x.aux.toNat < 96, .range)])
  | .pany h x => firstBad (fmtS h x false false 0 |>.append [(x.aux.toNat < 96, .range)])
  | .csrr h x => firstBad (fmtS h x false false 0 |>.append [(x.aux.toNat ∈ csrIds, .range)])
  | .csrw h x => firstBad (fmtS h x true false 0 |>.append [(x.aux.toNat ∈ csrIds, .range)])
  | .tdset h x => firstBad (fmtS h x true false 15 |>.append [(x.aux.toNat < 4, .range)])
  | .tdget h x => firstBad (fmtS h x false false 15 |>.append [(x.aux.toNat < 4, .range)])
  | .lidx h x => firstBad (fmtS h x false false 0 |>.append [(x.aux.toNat < 8, .range)])
  | .bnld h x => firstBad (fmtS h x true false 7 |>.append [(x.aux = 0, .range)])
  | .gen h x => firstBad (fmtS h x false false 0 |>.append [(x.aux = 0, .range)])
  | .jmp h x => firstBad (fmtB h x false |>.append [(x.aux4 = 0, .range)])
  | .brt h x => firstBad (fmtB h x true |>.append [(x.aux4 = 0, .range)])
  | .brf h x => firstBad (fmtB h x true |>.append [(x.aux4 = 0, .range)])
  | .call h x => firstBad (fmtB h x false |>.append [(x.aux4 = 0, .range)])
  | .ret h x => firstBad (fmtB h x false |>.append [(x.aux4 = 0 ∧ x.off = 0, .range)])
  | .jmpi h x => firstBad (fmtB h x true |>.append [(x.aux4 = 0 ∧ x.off = 0, .range)])
  | .calli h x => firstBad (fmtB h x true |>.append [(x.aux4 = 0 ∧ x.off = 0, .range)])
  | .loop h x => firstBad (fmtB h x true |>.append [(x.aux4 = 0 ∧ 2 ≤ x.off.toInt ∧ x.off.toInt ≤ 4096, .range)])
  | .lend h x => firstBad (fmtB h x false |>.append [(h.grd = 127 ∧ h.stg = 0, .guard),
    (x.aux4.toNat < 8 ∧ -4096 ≤ x.off.toInt ∧ x.off.toInt ≤ -2, .range)])
  | .done h x => firstBad (fmtB h x false |>.append [(x.nps = 0 ∧ x.aux4 = 0 ∧ x.off = 0, .range)])
  | .brk h x => firstBad (fmtB h x false |>.append [(x.nps = 0 ∧ x.aux4 = 0 ∧ x.off.toNat < 0xFFFF00, .range)])
  | .trap h x => firstBad (fmtB h x false |>.append [(x.nps = 0 ∧ x.aux4 = 0 ∧ x.off.toNat < 0xFFFF00, .range)])
  | .alive h x => firstBad (fmtB h x false |>.append [(x.nps = 0 ∧ x.aux4 = 0 ∧ x.off = 0, .range)])
  | .ldi h x => firstBad (fmtM h x false [0, 1, 4] [0, 1, 2, 3] |>.append [(x.mca = 0, .range)])
  | .ldn h x => firstBad (fmtM h x false [0, 1, 4] [0, 1, 2, 3] |>.append [(x.mca = 0, .range)])
  | .ldv h x => firstBad (fmtM h x false [0, 1, 4] [4, 5] |>.append [(x.mca = 0, .range)])
  | .st h x => firstBad (fmtM h x true [0, 2, 4] [0, 1, 2, 3])
  | .stv h x => firstBad (fmtM h x true [0, 2, 4] [4, 5])
  | .pref h x => firstBad (fmtM h x false [0] [0, 1, 2, 3, 4, 5] |>.append [(x.mca = 0 ∧ x.scp = 0 ∧ x.disp = 0, .range)])
  | .seal h x => firstBad (fmtM h x false [0] [0] |>.append [(x.mca = 0 ∧ x.scp = 0 ∧ x.disp = 0, .range)])
  | .unseal h x => firstBad (fmtM h x false [0] [0] |>.append [(x.mca = 0 ∧ x.scp = 0 ∧ x.disp = 0, .range)])
  | .ldq h x => firstBad (fmtMQueue h x)
  | .tld h x => firstBad (fmtT h x false |>.append [(x.mca = 0, .range)])
  | .tst h x => firstBad (fmtT h x true)
  | .tldq h x => firstBad (fmtTQueue h x)
  | .tgat h x => firstBad (fmtT h x false |>.append [(x.mca = 0, .range)])
  | .tsct h x => firstBad (fmtT h x true)
  | .tinfo h x => firstBad (fmtT h x false |>.append [(x.opb = 0, .operand), (x.mca = 0, .range)])
  | .qpush h x => firstBad (fmtQ h x true |>.append [(x.cnt = 0, .range)])
  | .qpop h x => firstBad (fmtQ h x false |>.append [(x.cnt = 0, .range)])
  | .qpeek h x => firstBad (fmtQ h x false |>.append [(x.cnt.toNat ≤ 15, .range)])
  | .qcnt h x => firstBad (fmtQ h x false |>.append [(x.cnt = 0, .range)])
  | .qdrop h x => firstBad (fmtQ h x false |>.append [(1 ≤ x.cnt.toNat ∧ x.cnt.toNat ≤ 16, .range)])
  | .amoAdd h x => firstBad (fmtYAmo h x tZ32 false)
  | .amoMin h x => firstBad (fmtYAmo h x tZ32 false)
  | .amoMax h x => firstBad (fmtYAmo h x tZ32 false)
  | .amoAnd h x => firstBad (fmtYAmo h x tZ32 false)
  | .amoOr h x => firstBad (fmtYAmo h x tZ32 false)
  | .amoXor h x => firstBad (fmtYAmo h x tZ32 false)
  | .amoSwap h x => firstBad (fmtYAmo h x tZ32 false)
  | .amoCas h x => firstBad (fmtYAmo h x tZ32 true)
  | .amoFadd h x => firstBad (fmtYAmo h x tF32 false)
  | .amoMadd h x => firstBad (fmtYAmo h x tM64 true)
  | .fence h x => firstBad (fmtYBare h x [1, 2, 3, 4] |>.append [(x.opc = 0, .operand), (x.mca = 0, .range), (x.scp.toNat ≤ 5, .range)])
  | .finc h x => firstBad (fmtYFlag h x [0, 1, 2, 3, 4] true)
  | .fwait h x => firstBad (fmtYFlag h x [0, 1, 4] true |>.append [(x.mca = 0, .range)])
  | .fset h x => firstBad (fmtYFlag h x [0, 2, 4] true)
  | .fget h x => firstBad (fmtYFlag h x [0, 1, 4] false |>.append [(x.mca = 0, .range)])
  | .sync h x => firstBad (fmtYBare h x [0] |>.append [(x.opc = 0, .operand), (x.mca = 0, .range), (2 ≤ x.scp.toNat ∧ x.scp.toNat ≤ 5, .range)])
  | .evset h x => firstBad (fmtYBare h x [0, 2, 4] |>.append [(x.opc.getLsbD 8 = false, .range), (x.scp.toNat ≤ 5, .range)])
  | .evwait h x => firstBad (fmtYBare h x [0, 1, 4] |>.append [(x.opc.getLsbD 8 = false, .range), (x.scp.toNat ≤ 5, .range), (x.mca = 0, .range)])
  | .evclr h x => firstBad (fmtYBare h x [0, 2, 4] |>.append [(x.opc.getLsbD 8 = false, .range), (x.scp.toNat ≤ 5, .range)])
  | .tzero h x => firstBad (fmtS h x false false 15 |>.append [(x.aux = 0, .range)])
  | .tfill h x => firstBad (fmtS h x true false 15 |>.append [(x.aux = 0, .range)])
  | .trow h x => firstBad (fmtS h x false false 15 |>.append [(x.aux.toNat < 64, .range)])
  | .twrow h x => firstBad (fmtS h x true false 15 |>.append [(x.aux.toNat < 64, .range)])
  | .tbmap h x => firstBad (fmtS h x false false 15 |>.append [(x.aux = 0, .range)])
  | .tscl h x => firstBad (fmtS h x true false 15 |>.append [(x.aux.toNat < 4, .range)])
  | .lease h x => firstBad (fmtS h x false false 0 |>.append [(x.aux = 0, .range)])
  | .unlease h x => firstBad (fmtS h x false false 0 |>.append [(x.aux = 0, .range)])
  | .mwait h x => firstBad (fmtS h x false false 0 |>.append [(x.aux = 0, .range)])
  | .mmul h r => firstBad (rec h r |>.append [(r.mca = 0 ∧ r.aux.toNat < 2, .range)])
  | .mmulc h r => firstBad (rec h r |>.append [(r.mca = 0 ∧ r.aux.toNat < 2, .range)])
  | .mmod h r => firstBad (rec h r |>.append [(r.mca = 0 ∧ r.aux.toNat < 8, .range)])
  | .mtr h r => firstBad (rec h r |>.append [(r.mca = 0 ∧ r.aux = 0, .range)])
  | .cp h r => firstBad (rec h r |>.append [(r.aux = 0, .range)])
  | .cpcv h r => firstBad (rec h r)
  | .cpdz h r => firstBad (rec h r |>.append [(r.aux = 0, .range)])
  | .cpbk h r => firstBad (rec h r |>.append [(r.aux.toNat < 16 ∧ r.aux.extractLsb' 0 3 ≠ 7 ∧ (r.aux.getLsbD 3 = true → r.aux.extractLsb' 0 3 = 0), .range)])
  | .coll h r => firstBad (rec h r |>.append [(r.aux.toNat < 32 ∧ r.aux.extractLsb' 2 3 ≠ 7 ∧ (r.aux.getLsbD 1 = true → r.aux.extractLsb' 2 3 = 0), .range)])
  | .mig h r => firstBad (rec h r |>.append [(r.aux.toNat ≤ 40, .range)])
  | .migrep h r => firstBad (rec h r |>.append [(r.aux.toNat < 16, .range)])
  | .note h r => firstBad (recLead h r |>.append [(r.acq = 0 ∧ r.mca = 0 ∧ r.ovn = 0 ∧ r.aux.toNat < 8 ∧ r.aux ≠ 0, .range)])
  | .dawn h x => firstBad (fmtS h x true false 0 |>.append [(x.aux = 0, .range)])
  | .dusk h x => firstBad (fmtS h x true false 0 |>.append [(x.aux = 0, .range)])
  | .sweep h x => firstBad (fmtS h x true false 0 |>.append [(x.aux = 0, .range)])
  | .ctxsave h x => firstBad (fmtS h x true false 0 |>.append [(x.aux = 0, .range)])
  | .ctxrest h x => firstBad (fmtS h x true false 0 |>.append [(x.aux = 0, .range)])
  | .tlbi h x => firstBad (fmtS h x true true 0 |>.append [(x.aux.toNat < 4, .range)])
  | .tcinv h x => firstBad (fmtS h x true true 0 |>.append [(x.aux = 0, .range)])
  | .tret h x => firstBad (fmtS h x false false 0 |>.append [(x.aux = 0, .range)])
  | .slotld h x => firstBad (fmtS h x true false 0 |>.append [((x.aux.extractLsb' 0 8).toNat + (x.aux.extractLsb' 8 8).toNat < 256, .range)])
  | .cutmark h x => firstBad (fmtS h x true false 0 |>.append [(x.aux = 0, .range)])
  | .pull h x => firstBad (fmtS h x true false 0 |>.append [(x.aux = 0, .range)])
  | .tdsync h x => firstBad (fmtS h x true false 0 |>.append [(x.aux = 0, .range)])
  | .idle h x => firstBad (fmtS h x false false 0 |>.append [(x.aux = 0, .range)])
  | .halt h x => firstBad (fmtS h x false false 0 |>.append [(x.aux = 0, .range)])
  | .rawEnter h x => firstBad (fmtS h x false false 0 |>.append [(x.aux = 1, .range)])
  | .rawLeave h x => firstBad (fmtS h x false false 0 |>.append [(x.aux = 0, .range)])
  | .rawLock h x => firstBad (fmtS h x false false 0 |>.append [(x.aux = 2, .range)])
  | .part h x => firstBad (fmtS h x true false 0 |>.append [(x.aux = 0, .range)])
  | .nop h x => firstBad (fmtS h x false false 0 |>.append [(headOk x.aux, .range)])
  | .lit h x _ => firstBad (fmtS h x false false 0 |>.append [(x.aux = 0, .range)])
  | .prio h x => firstBad (fmtS h x false false 0 |>.append [(x.aux.toNat < 8, .range)])
  | .nonInstructionWord w => if assigned w then some .event else none
  | .wdogFiredAnswer _ => some .event
  | .registerWrite _ _ => some .event
  | .blockTranslation _ _ _ => some .event
  | .pageWalkComplete _ _ => some .event
  | .queueEntryReady _ _ _ => some .event
  | .readReply _ _ _ => some .event
  | .writeApplyAtHome _ => some .event
  | .earlyExposure _ _ => some .event
  | .remoteAtomicAtHome _ => some .event
  | .writeAck _ _ => some .event
  | .ackTimeout _ _ => some .event
  | .clockChannelExchange => some .event
  | .atomicPageMigrate _ _ => some .event
  | .atomicPageReturn _ _ _ => some .event
  | .baseDieRequest _ _ => some .event
  | .waitConditionMet _ => some .event
  | .syncBarrierRelease _ _ _ => some .event
  | .sealComplete _ => some .event
  | .unsealComplete _ => some .event
  | .leaseGrant _ => some .event
  | .tenureTimeout _ => some .event
  | .recordStart _ _ => some .event
  | .recordElement _ _ => some .event
  | .recordComplete _ _ => some .event
  | .migDeadlineMiss _ _ => some .event
  | .mmulcArrayGrant _ _ => some .event
  | .matrixBlockComplete _ _ _ => some .event
  | .noteComplete _ _ => some .event
  | .launchConsume _ => some .event
  | .dispatch _ => some .event
  | .launchStart _ _ => some .event
  | .launchComplete _ _ => some .event
  | .sliceEnd _ => some .event
  | .softPreemptDrain _ => some .event
  | .softStopGraceExpiry _ => some .event
  | .gangSwitch _ => some .event
  | .partitionResume _ => some .event
  | .zeroSliceExchange _ => some .event
  | .watchdogUnitTick _ _ => some .event
  | .watchdogExpiry _ => some .event
  | .watchdogRemoval _ => some .event
  | .removalDrainEnd _ => some .event
  | .pendingCauseTaken _ => some .event
  | .singleStep _ => some .event
  | .sweepAutoStart _ => some .event
  | .sweepPassComplete _ => some .event
  | .slotTableUpdate _ => some .event
  | .flitArrival _ _ _ => some .event
  | .linkFlitRetry _ => some .event
  | .portLost _ => some .event
  | .hostPacketIngress _ _ => some .event
  | .eventRead _ => some .event
  | .eventWait _ _ => some .event
  | .eventWaitReply _ _ => some .event
  | .eventSet _ _ => some .event
  | .eventClear _ _ => some .event
  | .spdmMeasurements _ _ => some .event
  | .spdmKeyDelivery _ _ _ => some .event
  | .firmwareLoad _ => some .event
  | .healthReportRead _ => some .event
  | .errorLogRead _ => some .event
  | .counterBlockRead _ _ => some .event
  | .regulatorSourceSelect _ => some .event
  | .packageNumberSet _ => some .event
  | .cutMarker _ _ => some .event
  | .patrolScrub _ _ => some .event
  | .softErrorCorrected _ _ => some .event
  | .uncorrectableError _ => some .event
  | .powerOn => some .event
  | .vcoreLimit => some .event
  | .vmemLimit => some .event
  | .vlinkLimit => some .event
  | .vauxLimit => some .event
  | .tdpLimit => some .event
  | .junctionTempLimit => some .event
  | .criticalTemp => some .event
  | .linkRetrained _ => some .event
  | .spdmSecuredSession _ _ => some .event
  | .openSlotGrant _ _ => some .event

/-- The instruction is one the device accepts (R72). -/
abbrev Instr.WellFormed (i : Instr) : Prop := check i = none

end Sys2Proof
end

