-- ==== Sys2Proof/Decode.lean ====
section
/-! DEFINITION. Decoding and encoding instruction words (04 R46, R57-R68, R70-R72). A word that is not well formed is
rejected with the rule it breaks; a word of major 0x0 or 0xF or of an unassigned minor is the instruction
`nonInstructionWord`. -/

namespace Sys2Proof

/-- The header's fields (R46). -/
def hdrOf (w : Word) : Hdr :=
  { stg := w.extractLsb' 49 3, grd := w.extractLsb' 42 7, gsn := w.extractLsb' 41 1 }

/-- Format A (R57). -/
def fmtAOf (w : Word) : FmtA :=
  { opa := w.extractLsb' 32 9, opb := w.extractLsb' 23 9, opc := w.extractLsb' 14 9, clp := w.extractLsb' 12 2,
    scl := w.extractLsb' 7 5, typ := w.extractLsb' 0 7 }

/-- Format I (R58). -/
def fmtIOf (w : Word) : FmtI := { opa := w.extractLsb' 32 9, imm := w.extractLsb' 0 32 }

/-- Format B (R59). -/
def fmtBOf (w : Word) : FmtB :=
  { opa := w.extractLsb' 32 9, nps := w.extractLsb' 28 4, aux4 := w.extractLsb' 24 4, off := w.extractLsb' 0 24 }

/-- Format M (R60). -/
def fmtMOf (w : Word) : FmtM :=
  { opa := w.extractLsb' 32 9, opb := w.extractLsb' 23 9, size := w.extractLsb' 20 3, ord := w.extractLsb' 17 3,
    scp := w.extractLsb' 14 3, mca := w.extractLsb' 13 1, rsv := w.extractLsb' 12 1, disp := w.extractLsb' 0 12 }

/-- Format T (R61). -/
def fmtTOf (w : Word) : FmtT :=
  { opa := w.extractLsb' 32 9, opb := w.extractLsb' 23 9, opc := w.extractLsb' 14 9, mca := w.extractLsb' 13 1,
    hnd := w.extractLsb' 0 13 }

/-- Format Y (R62). -/
def fmtYOf (w : Word) : FmtY :=
  { opa := w.extractLsb' 32 9, opb := w.extractLsb' 23 9, opc := w.extractLsb' 14 9, ord := w.extractLsb' 11 3,
    scp := w.extractLsb' 8 3, mca := w.extractLsb' 7 1, typ := w.extractLsb' 0 7 }

/-- Format Q (R63). -/
def fmtQOf (w : Word) : FmtQ :=
  { opa := w.extractLsb' 32 9, opb := w.extractLsb' 23 9, qn := w.extractLsb' 20 3, cnt := w.extractLsb' 12 8,
    rsv := w.extractLsb' 0 12 }

/-- Format S (R64). -/
def fmtSOf (w : Word) : FmtS :=
  { opa := w.extractLsb' 32 9, opb := w.extractLsb' 23 9, dst := w.extractLsb' 16 7, aux := w.extractLsb' 0 16 }

/-- An engine record: the lead word and the seven words after it (R65). -/
def fmtROf (w : Word) : List Word → Option FmtR
  | w1 :: w2 :: w3 :: w4 :: w5 :: w6 :: w7 :: _ =>
    some { acq := w.extractLsb' 40 1, rel := w.extractLsb' 39 1, scp := w.extractLsb' 36 3, mca := w.extractLsb' 35 1,
           ovn := w.extractLsb' 33 2, ov0 := w.extractLsb' 24 9, ov1 := w.extractLsb' 15 9, ov2 := w.extractLsb' 6 9,
           aux := w.extractLsb' 0 6, w1, w2, w3, w4, w5, w6, w7 }
  | _ => none

/-- Major 0x1 (R71). -/
def decode1 (w : Word) (min : Nat) : Except Reject Instr :=
  match min with
  | 0x00 => .ok (.add (hdrOf w) (fmtAOf w))
  | 0x01 => .ok (.sub (hdrOf w) (fmtAOf w))
  | 0x02 => .ok (.mul (hdrOf w) (fmtAOf w))
  | 0x03 => .ok (.mulh (hdrOf w) (fmtAOf w))
  | 0x04 => .ok (.div (hdrOf w) (fmtAOf w))
  | 0x05 => .ok (.rem (hdrOf w) (fmtAOf w))
  | 0x06 => .ok (.mad (hdrOf w) (fmtAOf w))
  | 0x07 => .ok (.and_ (hdrOf w) (fmtAOf w))
  | 0x08 => .ok (.or_ (hdrOf w) (fmtAOf w))
  | 0x09 => .ok (.xor_ (hdrOf w) (fmtAOf w))
  | 0x0A => .ok (.andn (hdrOf w) (fmtAOf w))
  | 0x0B => .ok (.shl (hdrOf w) (fmtAOf w))
  | 0x0C => .ok (.shr (hdrOf w) (fmtAOf w))
  | 0x0D => .ok (.sar (hdrOf w) (fmtAOf w))
  | 0x0E => .ok (.rotl (hdrOf w) (fmtAOf w))
  | 0x0F => .ok (.clz (hdrOf w) (fmtAOf w))
  | 0x10 => .ok (.ctz (hdrOf w) (fmtAOf w))
  | 0x11 => .ok (.popc (hdrOf w) (fmtAOf w))
  | 0x12 => .ok (.min (hdrOf w) (fmtAOf w))
  | 0x13 => .ok (.max (hdrOf w) (fmtAOf w))
  | 0x14 => .ok (.cmp3 (hdrOf w) (fmtAOf w))
  | 0x15 => .ok (.sel (hdrOf w) (fmtAOf w))
  | 0x16 => .ok (.bfx (hdrOf w) (fmtAOf w))
  | 0x17 => .ok (.bfi (hdrOf w) (fmtAOf w))
  | 0x18 => .ok (.bnet (hdrOf w) (fmtAOf w))
  | 0x19 => .ok (.cvt (hdrOf w) (fmtAOf w))
  | 0x1A => .ok (.sqrt (hdrOf w) (fmtAOf w))
  | 0x1B => .ok (.lea (hdrOf w) (fmtAOf w))
  | 0x1C => .ok (.mov (hdrOf w) (fmtAOf w))
  | _ => .ok (.nonInstructionWord w)

/-- Major 0x2 (R71). -/
def decode2 (w : Word) (min : Nat) : Except Reject Instr :=
  match min with
  | 0x00 => .ok (.vadd (hdrOf w) (fmtAOf w))
  | 0x01 => .ok (.vsub (hdrOf w) (fmtAOf w))
  | 0x02 => .ok (.vmul (hdrOf w) (fmtAOf w))
  | 0x03 => .ok (.vmulh (hdrOf w) (fmtAOf w))
  | 0x04 => .ok (.vmad (hdrOf w) (fmtAOf w))
  | 0x05 => .ok (.vmin (hdrOf w) (fmtAOf w))
  | 0x06 => .ok (.vmax (hdrOf w) (fmtAOf w))
  | 0x07 => .ok (.vand (hdrOf w) (fmtAOf w))
  | 0x08 => .ok (.vor (hdrOf w) (fmtAOf w))
  | 0x09 => .ok (.vxor (hdrOf w) (fmtAOf w))
  | 0x0A => .ok (.vshl (hdrOf w) (fmtAOf w))
  | 0x0B => .ok (.vshr (hdrOf w) (fmtAOf w))
  | 0x0C => .ok (.vsar (hdrOf w) (fmtAOf w))
  | 0x0D => .ok (.vsel (hdrOf w) (fmtAOf w))
  | 0x0E => .ok (.vdiv (hdrOf w) (fmtAOf w))
  | 0x0F => .ok (.vsqrt (hdrOf w) (fmtAOf w))
  | 0x10 => .ok (.vrcp (hdrOf w) (fmtAOf w))
  | 0x11 => .ok (.vrsqrt (hdrOf w) (fmtAOf w))
  | 0x12 => .ok (.vexp2 (hdrOf w) (fmtAOf w))
  | 0x13 => .ok (.vlog2 (hdrOf w) (fmtAOf w))
  | 0x14 => .ok (.vcvt (hdrOf w) (fmtAOf w))
  | 0x15 => .ok (.vwid (hdrOf w) (fmtAOf w))
  | 0x16 => .ok (.vred (hdrOf w) (fmtAOf w))
  | 0x17 => .ok (.vscan (hdrOf w) (fmtAOf w))
  | 0x18 => .ok (.vperm (hdrOf w) (fmtAOf w))
  | 0x19 => .ok (.vbcast (hdrOf w) (fmtAOf w))
  | 0x1A => .ok (.vslide (hdrOf w) (fmtAOf w))
  | 0x1B => .ok (.vtrn (hdrOf w) (fmtAOf w))
  | 0x1C => .ok (.vpack (hdrOf w) (fmtAOf w))
  | 0x1D => .ok (.vmxq (hdrOf w) (fmtAOf w))
  | 0x1E => .ok (.vmxdq (hdrOf w) (fmtAOf w))
  | 0x1F => .ok (.vbmap (hdrOf w) (fmtAOf w))
  | 0x20 => .ok (.vbnet (hdrOf w) (fmtAOf w))
  | 0x21 => .ok (.vpopc (hdrOf w) (fmtAOf w))
  | 0x22 => .ok (.vclz (hdrOf w) (fmtAOf w))
  | 0x23 => .ok (.vdot4 (hdrOf w) (fmtAOf w))
  | 0x24 => .ok (.vmov (hdrOf w) (fmtAOf w))
  | 0x25 => .ok (.vcvtsr (hdrOf w) (fmtAOf w))
  | 0x26 => .ok (.vli (hdrOf w) (fmtAOf w))
  | _ => .ok (.nonInstructionWord w)

/-- Major 0x3 (R71). -/
def decode3 (w : Word) (min : Nat) : Except Reject Instr :=
  match min with
  | 0x00 => .ok (.li (hdrOf w) (fmtIOf w))
  | 0x01 => .ok (.lih (hdrOf w) (fmtIOf w))
  | 0x02 => .ok (.addi (hdrOf w) (fmtIOf w))
  | 0x03 => .ok (.andi (hdrOf w) (fmtIOf w))
  | 0x04 => .ok (.ori (hdrOf w) (fmtIOf w))
  | 0x05 => .ok (.xori (hdrOf w) (fmtIOf w))
  | 0x06 => .ok (.shli (hdrOf w) (fmtIOf w))
  | 0x07 => .ok (.shri (hdrOf w) (fmtIOf w))
  | 0x08 => .ok (.sari (hdrOf w) (fmtIOf w))
  | 0x09 => .ok (.lf (hdrOf w) (fmtIOf w))
  | _ => .ok (.nonInstructionWord w)

/-- Major 0x4 (R71). -/
def decode4 (w : Word) (min : Nat) : Except Reject Instr :=
  match min with
  | 0x00 => .ok (.mqadd (hdrOf w) (fmtAOf w))
  | 0x01 => .ok (.mqsub (hdrOf w) (fmtAOf w))
  | 0x02 => .ok (.mqmul (hdrOf w) (fmtAOf w))
  | 0x03 => .ok (.mqmac (hdrOf w) (fmtAOf w))
  | 0x04 => .ok (.mqred (hdrOf w) (fmtAOf w))
  | 0x05 => .ok (.mqbct (hdrOf w) (fmtAOf w))
  | 0x06 => .ok (.mqbgs (hdrOf w) (fmtAOf w))
  | 0x07 => .ok (.mqset (hdrOf w) (fmtAOf w))
  | _ => .ok (.nonInstructionWord w)

/-- Major 0x5 (R71). -/
def decode5 (w : Word) (min : Nat) : Except Reject Instr :=
  match min with
  | 0x00 => .ok (.sget (hdrOf w) (fmtSOf w))
  | 0x01 => .ok (.sput (hdrOf w) (fmtSOf w))
  | 0x02 => .ok (.vget (hdrOf w) (fmtSOf w))
  | 0x03 => .ok (.vput (hdrOf w) (fmtSOf w))
  | 0x04 => .ok (.keep (hdrOf w) (fmtSOf w))
  | 0x05 => .ok (.pcmp (hdrOf w) (fmtSOf w))
  | 0x06 => .ok (.pset (hdrOf w) (fmtSOf w))
  | 0x07 => .ok (.pand (hdrOf w) (fmtSOf w))
  | 0x08 => .ok (.por (hdrOf w) (fmtSOf w))
  | 0x09 => .ok (.pxor (hdrOf w) (fmtSOf w))
  | 0x0A => .ok (.pnot (hdrOf w) (fmtSOf w))
  | 0x0B => .ok (.pmov (hdrOf w) (fmtSOf w))
  | 0x0C => .ok (.pany (hdrOf w) (fmtSOf w))
  | 0x0D => .ok (.csrr (hdrOf w) (fmtSOf w))
  | 0x0E => .ok (.csrw (hdrOf w) (fmtSOf w))
  | 0x0F => .ok (.tdset (hdrOf w) (fmtSOf w))
  | 0x10 => .ok (.tdget (hdrOf w) (fmtSOf w))
  | 0x11 => .ok (.lidx (hdrOf w) (fmtSOf w))
  | 0x12 => .ok (.bnld (hdrOf w) (fmtSOf w))
  | 0x13 => .ok (.gen (hdrOf w) (fmtSOf w))
  | _ => .ok (.nonInstructionWord w)

/-- Major 0x6 (R71). -/
def decode6 (w : Word) (min : Nat) : Except Reject Instr :=
  match min with
  | 0x00 => .ok (.jmp (hdrOf w) (fmtBOf w))
  | 0x01 => .ok (.brt (hdrOf w) (fmtBOf w))
  | 0x02 => .ok (.brf (hdrOf w) (fmtBOf w))
  | 0x03 => .ok (.call (hdrOf w) (fmtBOf w))
  | 0x04 => .ok (.ret (hdrOf w) (fmtBOf w))
  | 0x05 => .ok (.jmpi (hdrOf w) (fmtBOf w))
  | 0x06 => .ok (.calli (hdrOf w) (fmtBOf w))
  | 0x07 => .ok (.loop (hdrOf w) (fmtBOf w))
  | 0x08 => .ok (.lend (hdrOf w) (fmtBOf w))
  | 0x09 => .ok (.done (hdrOf w) (fmtBOf w))
  | 0x0A => .ok (.brk (hdrOf w) (fmtBOf w))
  | 0x0B => .ok (.trap (hdrOf w) (fmtBOf w))
  | 0x0C => .ok (.alive (hdrOf w) (fmtBOf w))
  | _ => .ok (.nonInstructionWord w)

/-- Major 0x7 (R71). -/
def decode7 (w : Word) (min : Nat) : Except Reject Instr :=
  match min with
  | 0x00 => .ok (.ldi (hdrOf w) (fmtMOf w))
  | 0x01 => .ok (.ldn (hdrOf w) (fmtMOf w))
  | 0x02 => .ok (.ldv (hdrOf w) (fmtMOf w))
  | 0x03 => .ok (.st (hdrOf w) (fmtMOf w))
  | 0x04 => .ok (.stv (hdrOf w) (fmtMOf w))
  | 0x05 => .ok (.pref (hdrOf w) (fmtMOf w))
  | 0x06 => .ok (.seal (hdrOf w) (fmtMOf w))
  | 0x07 => .ok (.unseal (hdrOf w) (fmtMOf w))
  | 0x08 => .ok (.ldq (hdrOf w) (fmtMOf w))
  | _ => .ok (.nonInstructionWord w)

/-- Major 0x8 (R71). -/
def decode8 (w : Word) (min : Nat) : Except Reject Instr :=
  match min with
  | 0x00 => .ok (.tld (hdrOf w) (fmtTOf w))
  | 0x01 => .ok (.tst (hdrOf w) (fmtTOf w))
  | 0x02 => .ok (.tldq (hdrOf w) (fmtTOf w))
  | 0x03 => .ok (.tgat (hdrOf w) (fmtTOf w))
  | 0x04 => .ok (.tsct (hdrOf w) (fmtTOf w))
  | 0x05 => .ok (.tinfo (hdrOf w) (fmtTOf w))
  | _ => .ok (.nonInstructionWord w)

/-- Major 0x9 (R71). -/
def decode9 (w : Word) (min : Nat) : Except Reject Instr :=
  match min with
  | 0x00 => .ok (.qpush (hdrOf w) (fmtQOf w))
  | 0x01 => .ok (.qpop (hdrOf w) (fmtQOf w))
  | 0x02 => .ok (.qpeek (hdrOf w) (fmtQOf w))
  | 0x03 => .ok (.qcnt (hdrOf w) (fmtQOf w))
  | 0x04 => .ok (.qdrop (hdrOf w) (fmtQOf w))
  | _ => .ok (.nonInstructionWord w)

/-- Major 0xA (R71). -/
def decode10 (w : Word) (min : Nat) : Except Reject Instr :=
  match min with
  | 0x00 => .ok (.amoAdd (hdrOf w) (fmtYOf w))
  | 0x01 => .ok (.amoMin (hdrOf w) (fmtYOf w))
  | 0x02 => .ok (.amoMax (hdrOf w) (fmtYOf w))
  | 0x03 => .ok (.amoAnd (hdrOf w) (fmtYOf w))
  | 0x04 => .ok (.amoOr (hdrOf w) (fmtYOf w))
  | 0x05 => .ok (.amoXor (hdrOf w) (fmtYOf w))
  | 0x06 => .ok (.amoSwap (hdrOf w) (fmtYOf w))
  | 0x07 => .ok (.amoCas (hdrOf w) (fmtYOf w))
  | 0x08 => .ok (.amoFadd (hdrOf w) (fmtYOf w))
  | 0x09 => .ok (.amoMadd (hdrOf w) (fmtYOf w))
  | 0x0A => .ok (.fence (hdrOf w) (fmtYOf w))
  | 0x0B => .ok (.finc (hdrOf w) (fmtYOf w))
  | 0x0C => .ok (.fwait (hdrOf w) (fmtYOf w))
  | 0x0D => .ok (.fset (hdrOf w) (fmtYOf w))
  | 0x0E => .ok (.fget (hdrOf w) (fmtYOf w))
  | 0x0F => .ok (.sync (hdrOf w) (fmtYOf w))
  | 0x10 => .ok (.evset (hdrOf w) (fmtYOf w))
  | 0x11 => .ok (.evwait (hdrOf w) (fmtYOf w))
  | 0x12 => .ok (.evclr (hdrOf w) (fmtYOf w))
  | _ => .ok (.nonInstructionWord w)

/-- Major 0xB (R71). -/
def decode11 (w : Word) (min : Nat) : Except Reject Instr :=
  match min with
  | 0x00 => .ok (.tzero (hdrOf w) (fmtSOf w))
  | 0x01 => .ok (.tfill (hdrOf w) (fmtSOf w))
  | 0x02 => .ok (.trow (hdrOf w) (fmtSOf w))
  | 0x03 => .ok (.twrow (hdrOf w) (fmtSOf w))
  | 0x04 => .ok (.tbmap (hdrOf w) (fmtSOf w))
  | 0x08 => .ok (.tscl (hdrOf w) (fmtSOf w))
  | 0x05 => .ok (.lease (hdrOf w) (fmtSOf w))
  | 0x06 => .ok (.unlease (hdrOf w) (fmtSOf w))
  | 0x07 => .ok (.mwait (hdrOf w) (fmtSOf w))
  | _ => .ok (.nonInstructionWord w)

/-- Major 0xC: engine records of eight words (R65). -/
def decode12 (w : Word) (rest : List Word) (min : Nat) : Except Reject Instr :=
  match assigned w, fmtROf w rest with
  | false, _ => .ok (.nonInstructionWord w)
  | true, none => .error .words
  | true, some r =>
    match min with
    | 0x00 => .ok (.mmul (hdrOf w) r)
    | 0x01 => .ok (.mmulc (hdrOf w) r)
    | 0x02 => .ok (.mmod (hdrOf w) r)
    | 0x03 => .ok (.mtr (hdrOf w) r)
    | 0x10 => .ok (.cp (hdrOf w) r)
    | 0x11 => .ok (.cpcv (hdrOf w) r)
    | 0x12 => .ok (.cpdz (hdrOf w) r)
    | 0x13 => .ok (.cpbk (hdrOf w) r)
    | 0x18 => .ok (.coll (hdrOf w) r)
    | 0x1C => .ok (.mig (hdrOf w) r)
    | 0x1D => .ok (.migrep (hdrOf w) r)
    | 0x1F => .ok (.note (hdrOf w) r)
    | _ => .ok (.nonInstructionWord w)

/-- Major 0xD (R71). -/
def decode13 (w : Word) (min : Nat) : Except Reject Instr :=
  match min with
  | 0x00 => .ok (.dawn (hdrOf w) (fmtSOf w))
  | 0x01 => .ok (.dusk (hdrOf w) (fmtSOf w))
  | 0x02 => .ok (.sweep (hdrOf w) (fmtSOf w))
  | 0x03 => .ok (.ctxsave (hdrOf w) (fmtSOf w))
  | 0x04 => .ok (.ctxrest (hdrOf w) (fmtSOf w))
  | 0x05 => .ok (.tlbi (hdrOf w) (fmtSOf w))
  | 0x06 => .ok (.tcinv (hdrOf w) (fmtSOf w))
  | 0x07 => .ok (.tret (hdrOf w) (fmtSOf w))
  | 0x08 => .ok (.slotld (hdrOf w) (fmtSOf w))
  | 0x09 => .ok (.cutmark (hdrOf w) (fmtSOf w))
  | 0x0A => .ok (.pull (hdrOf w) (fmtSOf w))
  | 0x0B => .ok (.tdsync (hdrOf w) (fmtSOf w))
  | 0x0C => .ok (.idle (hdrOf w) (fmtSOf w))
  | 0x0D => .ok (.halt (hdrOf w) (fmtSOf w))
  | 0x0E => if (fmtSOf w).aux = 1 then .ok (.rawEnter (hdrOf w) (fmtSOf w))
      else if (fmtSOf w).aux = 2 then .ok (.rawLock (hdrOf w) (fmtSOf w))
      else .ok (.rawLeave (hdrOf w) (fmtSOf w))
  | 0x0F => .ok (.part (hdrOf w) (fmtSOf w))
  | _ => .ok (.nonInstructionWord w)

/-- Major 0xE (R242). -/
def decode14 (w : Word) (rest : List Word) (min : Nat) : Except Reject Instr :=
  match min with
  | 0x00 => .ok (.nop (hdrOf w) (fmtSOf w))
  | 0x01 => (match rest with
      | v :: _ => .ok (.lit (hdrOf w) (fmtSOf w) v)
      | [] => .error .words)
  | 0x02 => .ok (.prio (hdrOf w) (fmtSOf w))
  | _ => .ok (.nonInstructionWord w)

/-- The instruction whose fields the word holds, before any check of R72. -/
def decodeRaw (w : Word) (rest : List Word) : Except Reject Instr :=
  let min := (w.extractLsb' 52 8).toNat
  match (w.extractLsb' 60 4).toNat with
  | 1 => decode1 w min
  | 2 => decode2 w min
  | 3 => decode3 w min
  | 4 => decode4 w min
  | 5 => decode5 w min
  | 6 => decode6 w min
  | 7 => decode7 w min
  | 8 => decode8 w min
  | 9 => decode9 w min
  | 10 => decode10 w min
  | 11 => decode11 w min
  | 12 => decode12 w rest min
  | 13 => decode13 w min
  | 14 => decode14 w rest min
  | _ => .ok (.nonInstructionWord w)

/-- Decoding (R72): the first instruction of a list of words, or the rule it breaks. -/
def decode : List Word → Except Reject Instr
  | [] => .error .words
  | w :: rest =>
    match decodeRaw w rest with
    | .error r => .error r
    | .ok i =>
      match check i with
      | none => .ok i
      | some r => .error r

/-- MAJ, MIN and the header above the format's 41 bits (R46). -/
def encHead (h : Hdr) (maj : BitVec 4) (min : BitVec 8) (body : BitVec 41) : Word :=
  maj ++ min ++ h.stg ++ h.grd ++ h.gsn ++ body

def encA (h : Hdr) (maj : BitVec 4) (min : BitVec 8) (x : FmtA) : Word :=
  encHead h maj min (x.opa ++ x.opb ++ x.opc ++ x.clp ++ x.scl ++ x.typ)
def encI (h : Hdr) (maj : BitVec 4) (min : BitVec 8) (x : FmtI) : Word :=
  encHead h maj min (x.opa ++ x.imm)
def encB (h : Hdr) (maj : BitVec 4) (min : BitVec 8) (x : FmtB) : Word :=
  encHead h maj min (x.opa ++ x.nps ++ x.aux4 ++ x.off)
def encM (h : Hdr) (maj : BitVec 4) (min : BitVec 8) (x : FmtM) : Word :=
  encHead h maj min (x.opa ++ x.opb ++ x.size ++ x.ord ++ x.scp ++ x.mca ++ x.rsv ++ x.disp)
def encT (h : Hdr) (maj : BitVec 4) (min : BitVec 8) (x : FmtT) : Word :=
  encHead h maj min (x.opa ++ x.opb ++ x.opc ++ x.mca ++ x.hnd)
def encY (h : Hdr) (maj : BitVec 4) (min : BitVec 8) (x : FmtY) : Word :=
  encHead h maj min (x.opa ++ x.opb ++ x.opc ++ x.ord ++ x.scp ++ x.mca ++ x.typ)
def encQ (h : Hdr) (maj : BitVec 4) (min : BitVec 8) (x : FmtQ) : Word :=
  encHead h maj min (x.opa ++ x.opb ++ x.qn ++ x.cnt ++ x.rsv)
def encS (h : Hdr) (maj : BitVec 4) (min : BitVec 8) (x : FmtS) : Word :=
  encHead h maj min (x.opa ++ x.opb ++ x.dst ++ x.aux)
/-- The eight words of a record (R65). -/
def encR (h : Hdr) (min : BitVec 8) (r : FmtR) : List Word :=
  [encHead h 0xC min (r.acq ++ r.rel ++ r.scp ++ r.mca ++ r.ovn ++ r.ov0 ++ r.ov1 ++ r.ov2 ++ r.aux),
    r.w1, r.w2, r.w3, r.w4, r.w5, r.w6, r.w7]

/-- The words of an instruction (R46, R57-R66, R71); none for a step that no word names. -/
def encode : Instr → List Word
  | .add h x => [encA h 0x1 0x00 x]
  | .sub h x => [encA h 0x1 0x01 x]
  | .mul h x => [encA h 0x1 0x02 x]
  | .mulh h x => [encA h 0x1 0x03 x]
  | .div h x => [encA h 0x1 0x04 x]
  | .rem h x => [encA h 0x1 0x05 x]
  | .mad h x => [encA h 0x1 0x06 x]
  | .and_ h x => [encA h 0x1 0x07 x]
  | .or_ h x => [encA h 0x1 0x08 x]
  | .xor_ h x => [encA h 0x1 0x09 x]
  | .andn h x => [encA h 0x1 0x0A x]
  | .shl h x => [encA h 0x1 0x0B x]
  | .shr h x => [encA h 0x1 0x0C x]
  | .sar h x => [encA h 0x1 0x0D x]
  | .rotl h x => [encA h 0x1 0x0E x]
  | .clz h x => [encA h 0x1 0x0F x]
  | .ctz h x => [encA h 0x1 0x10 x]
  | .popc h x => [encA h 0x1 0x11 x]
  | .min h x => [encA h 0x1 0x12 x]
  | .max h x => [encA h 0x1 0x13 x]
  | .cmp3 h x => [encA h 0x1 0x14 x]
  | .sel h x => [encA h 0x1 0x15 x]
  | .bfx h x => [encA h 0x1 0x16 x]
  | .bfi h x => [encA h 0x1 0x17 x]
  | .bnet h x => [encA h 0x1 0x18 x]
  | .cvt h x => [encA h 0x1 0x19 x]
  | .sqrt h x => [encA h 0x1 0x1A x]
  | .lea h x => [encA h 0x1 0x1B x]
  | .mov h x => [encA h 0x1 0x1C x]
  | .vadd h x => [encA h 0x2 0x00 x]
  | .vsub h x => [encA h 0x2 0x01 x]
  | .vmul h x => [encA h 0x2 0x02 x]
  | .vmulh h x => [encA h 0x2 0x03 x]
  | .vmad h x => [encA h 0x2 0x04 x]
  | .vmin h x => [encA h 0x2 0x05 x]
  | .vmax h x => [encA h 0x2 0x06 x]
  | .vand h x => [encA h 0x2 0x07 x]
  | .vor h x => [encA h 0x2 0x08 x]
  | .vxor h x => [encA h 0x2 0x09 x]
  | .vshl h x => [encA h 0x2 0x0A x]
  | .vshr h x => [encA h 0x2 0x0B x]
  | .vsar h x => [encA h 0x2 0x0C x]
  | .vsel h x => [encA h 0x2 0x0D x]
  | .vdiv h x => [encA h 0x2 0x0E x]
  | .vsqrt h x => [encA h 0x2 0x0F x]
  | .vrcp h x => [encA h 0x2 0x10 x]
  | .vrsqrt h x => [encA h 0x2 0x11 x]
  | .vexp2 h x => [encA h 0x2 0x12 x]
  | .vlog2 h x => [encA h 0x2 0x13 x]
  | .vcvt h x => [encA h 0x2 0x14 x]
  | .vwid h x => [encA h 0x2 0x15 x]
  | .vred h x => [encA h 0x2 0x16 x]
  | .vscan h x => [encA h 0x2 0x17 x]
  | .vperm h x => [encA h 0x2 0x18 x]
  | .vbcast h x => [encA h 0x2 0x19 x]
  | .vslide h x => [encA h 0x2 0x1A x]
  | .vtrn h x => [encA h 0x2 0x1B x]
  | .vpack h x => [encA h 0x2 0x1C x]
  | .vmxq h x => [encA h 0x2 0x1D x]
  | .vmxdq h x => [encA h 0x2 0x1E x]
  | .vbmap h x => [encA h 0x2 0x1F x]
  | .vbnet h x => [encA h 0x2 0x20 x]
  | .vpopc h x => [encA h 0x2 0x21 x]
  | .vclz h x => [encA h 0x2 0x22 x]
  | .vdot4 h x => [encA h 0x2 0x23 x]
  | .vmov h x => [encA h 0x2 0x24 x]
  | .vcvtsr h x => [encA h 0x2 0x25 x]
  | .vli h x => [encA h 0x2 0x26 x]
  | .li h x => [encI h 0x3 0x00 x]
  | .lih h x => [encI h 0x3 0x01 x]
  | .addi h x => [encI h 0x3 0x02 x]
  | .andi h x => [encI h 0x3 0x03 x]
  | .ori h x => [encI h 0x3 0x04 x]
  | .xori h x => [encI h 0x3 0x05 x]
  | .shli h x => [encI h 0x3 0x06 x]
  | .shri h x => [encI h 0x3 0x07 x]
  | .sari h x => [encI h 0x3 0x08 x]
  | .lf h x => [encI h 0x3 0x09 x]
  | .mqadd h x => [encA h 0x4 0x00 x]
  | .mqsub h x => [encA h 0x4 0x01 x]
  | .mqmul h x => [encA h 0x4 0x02 x]
  | .mqmac h x => [encA h 0x4 0x03 x]
  | .mqred h x => [encA h 0x4 0x04 x]
  | .mqbct h x => [encA h 0x4 0x05 x]
  | .mqbgs h x => [encA h 0x4 0x06 x]
  | .mqset h x => [encA h 0x4 0x07 x]
  | .sget h x => [encS h 0x5 0x00 x]
  | .sput h x => [encS h 0x5 0x01 x]
  | .vget h x => [encS h 0x5 0x02 x]
  | .vput h x => [encS h 0x5 0x03 x]
  | .keep h x => [encS h 0x5 0x04 x]
  | .pcmp h x => [encS h 0x5 0x05 x]
  | .pset h x => [encS h 0x5 0x06 x]
  | .pand h x => [encS h 0x5 0x07 x]
  | .por h x => [encS h 0x5 0x08 x]
  | .pxor h x => [encS h 0x5 0x09 x]
  | .pnot h x => [encS h 0x5 0x0A x]
  | .pmov h x => [encS h 0x5 0x0B x]
  | .pany h x => [encS h 0x5 0x0C x]
  | .csrr h x => [encS h 0x5 0x0D x]
  | .csrw h x => [encS h 0x5 0x0E x]
  | .tdset h x => [encS h 0x5 0x0F x]
  | .tdget h x => [encS h 0x5 0x10 x]
  | .lidx h x => [encS h 0x5 0x11 x]
  | .bnld h x => [encS h 0x5 0x12 x]
  | .gen h x => [encS h 0x5 0x13 x]
  | .jmp h x => [encB h 0x6 0x00 x]
  | .brt h x => [encB h 0x6 0x01 x]
  | .brf h x => [encB h 0x6 0x02 x]
  | .call h x => [encB h 0x6 0x03 x]
  | .ret h x => [encB h 0x6 0x04 x]
  | .jmpi h x => [encB h 0x6 0x05 x]
  | .calli h x => [encB h 0x6 0x06 x]
  | .loop h x => [encB h 0x6 0x07 x]
  | .lend h x => [encB h 0x6 0x08 x]
  | .done h x => [encB h 0x6 0x09 x]
  | .brk h x => [encB h 0x6 0x0A x]
  | .trap h x => [encB h 0x6 0x0B x]
  | .alive h x => [encB h 0x6 0x0C x]
  | .ldi h x => [encM h 0x7 0x00 x]
  | .ldn h x => [encM h 0x7 0x01 x]
  | .ldv h x => [encM h 0x7 0x02 x]
  | .st h x => [encM h 0x7 0x03 x]
  | .stv h x => [encM h 0x7 0x04 x]
  | .pref h x => [encM h 0x7 0x05 x]
  | .seal h x => [encM h 0x7 0x06 x]
  | .unseal h x => [encM h 0x7 0x07 x]
  | .ldq h x => [encM h 0x7 0x08 x]
  | .tld h x => [encT h 0x8 0x00 x]
  | .tst h x => [encT h 0x8 0x01 x]
  | .tldq h x => [encT h 0x8 0x02 x]
  | .tgat h x => [encT h 0x8 0x03 x]
  | .tsct h x => [encT h 0x8 0x04 x]
  | .tinfo h x => [encT h 0x8 0x05 x]
  | .qpush h x => [encQ h 0x9 0x00 x]
  | .qpop h x => [encQ h 0x9 0x01 x]
  | .qpeek h x => [encQ h 0x9 0x02 x]
  | .qcnt h x => [encQ h 0x9 0x03 x]
  | .qdrop h x => [encQ h 0x9 0x04 x]
  | .amoAdd h x => [encY h 0xA 0x00 x]
  | .amoMin h x => [encY h 0xA 0x01 x]
  | .amoMax h x => [encY h 0xA 0x02 x]
  | .amoAnd h x => [encY h 0xA 0x03 x]
  | .amoOr h x => [encY h 0xA 0x04 x]
  | .amoXor h x => [encY h 0xA 0x05 x]
  | .amoSwap h x => [encY h 0xA 0x06 x]
  | .amoCas h x => [encY h 0xA 0x07 x]
  | .amoFadd h x => [encY h 0xA 0x08 x]
  | .amoMadd h x => [encY h 0xA 0x09 x]
  | .fence h x => [encY h 0xA 0x0A x]
  | .finc h x => [encY h 0xA 0x0B x]
  | .fwait h x => [encY h 0xA 0x0C x]
  | .fset h x => [encY h 0xA 0x0D x]
  | .fget h x => [encY h 0xA 0x0E x]
  | .sync h x => [encY h 0xA 0x0F x]
  | .evset h x => [encY h 0xA 0x10 x]
  | .evwait h x => [encY h 0xA 0x11 x]
  | .evclr h x => [encY h 0xA 0x12 x]
  | .tzero h x => [encS h 0xB 0x00 x]
  | .tfill h x => [encS h 0xB 0x01 x]
  | .trow h x => [encS h 0xB 0x02 x]
  | .twrow h x => [encS h 0xB 0x03 x]
  | .tbmap h x => [encS h 0xB 0x04 x]
  | .tscl h x => [encS h 0xB 0x08 x]
  | .lease h x => [encS h 0xB 0x05 x]
  | .unlease h x => [encS h 0xB 0x06 x]
  | .mwait h x => [encS h 0xB 0x07 x]
  | .mmul h r => encR h 0x00 r
  | .mmulc h r => encR h 0x01 r
  | .mmod h r => encR h 0x02 r
  | .mtr h r => encR h 0x03 r
  | .cp h r => encR h 0x10 r
  | .cpcv h r => encR h 0x11 r
  | .cpdz h r => encR h 0x12 r
  | .cpbk h r => encR h 0x13 r
  | .coll h r => encR h 0x18 r
  | .mig h r => encR h 0x1C r
  | .migrep h r => encR h 0x1D r
  | .note h r => encR h 0x1F r
  | .dawn h x => [encS h 0xD 0x00 x]
  | .dusk h x => [encS h 0xD 0x01 x]
  | .sweep h x => [encS h 0xD 0x02 x]
  | .ctxsave h x => [encS h 0xD 0x03 x]
  | .ctxrest h x => [encS h 0xD 0x04 x]
  | .tlbi h x => [encS h 0xD 0x05 x]
  | .tcinv h x => [encS h 0xD 0x06 x]
  | .tret h x => [encS h 0xD 0x07 x]
  | .slotld h x => [encS h 0xD 0x08 x]
  | .cutmark h x => [encS h 0xD 0x09 x]
  | .pull h x => [encS h 0xD 0x0A x]
  | .tdsync h x => [encS h 0xD 0x0B x]
  | .idle h x => [encS h 0xD 0x0C x]
  | .halt h x => [encS h 0xD 0x0D x]
  | .rawEnter h x => [encS h 0xD 0x0E x]
  | .rawLeave h x => [encS h 0xD 0x0E x]
  | .rawLock h x => [encS h 0xD 0x0E x]
  | .part h x => [encS h 0xD 0x0F x]
  | .nop h x => [encS h 0xE 0x00 x]
  | .lit h x v => [encS h 0xE 0x01 x, v]
  | .prio h x => [encS h 0xE 0x02 x]
  | .nonInstructionWord w => [w]
  | .wdogFiredAnswer _ => []
  | .registerWrite _ _ => []
  | .blockTranslation _ _ _ => []
  | .pageWalkComplete _ _ => []
  | .queueEntryReady _ _ _ => []
  | .readReply _ _ _ => []
  | .writeApplyAtHome _ => []
  | .earlyExposure _ _ => []
  | .remoteAtomicAtHome _ => []
  | .writeAck _ _ => []
  | .ackTimeout _ _ => []
  | .clockChannelExchange => []
  | .atomicPageMigrate _ _ => []
  | .atomicPageReturn _ _ _ => []
  | .baseDieRequest _ _ => []
  | .waitConditionMet _ => []
  | .syncBarrierRelease _ _ _ => []
  | .sealComplete _ => []
  | .unsealComplete _ => []
  | .leaseGrant _ => []
  | .tenureTimeout _ => []
  | .recordStart _ _ => []
  | .recordElement _ _ => []
  | .recordComplete _ _ => []
  | .migDeadlineMiss _ _ => []
  | .mmulcArrayGrant _ _ => []
  | .matrixBlockComplete _ _ _ => []
  | .noteComplete _ _ => []
  | .launchConsume _ => []
  | .dispatch _ => []
  | .launchStart _ _ => []
  | .launchComplete _ _ => []
  | .sliceEnd _ => []
  | .softPreemptDrain _ => []
  | .softStopGraceExpiry _ => []
  | .gangSwitch _ => []
  | .partitionResume _ => []
  | .zeroSliceExchange _ => []
  | .watchdogUnitTick _ _ => []
  | .watchdogExpiry _ => []
  | .watchdogRemoval _ => []
  | .removalDrainEnd _ => []
  | .pendingCauseTaken _ => []
  | .singleStep _ => []
  | .sweepAutoStart _ => []
  | .sweepPassComplete _ => []
  | .slotTableUpdate _ => []
  | .flitArrival _ _ _ => []
  | .linkFlitRetry _ => []
  | .portLost _ => []
  | .hostPacketIngress _ _ => []
  | .eventRead _ => []
  | .eventWait _ _ => []
  | .eventWaitReply _ _ => []
  | .eventSet _ _ => []
  | .eventClear _ _ => []
  | .spdmMeasurements _ _ => []
  | .spdmKeyDelivery _ _ _ => []
  | .firmwareLoad _ => []
  | .healthReportRead _ => []
  | .errorLogRead _ => []
  | .counterBlockRead _ _ => []
  | .regulatorSourceSelect _ => []
  | .packageNumberSet _ => []
  | .cutMarker _ _ => []
  | .patrolScrub _ _ => []
  | .softErrorCorrected _ _ => []
  | .uncorrectableError _ => []
  | .powerOn => []
  | .vcoreLimit => []
  | .vmemLimit => []
  | .vlinkLimit => []
  | .vauxLimit => []
  | .tdpLimit => []
  | .junctionTempLimit => []
  | .criticalTemp => []
  | .linkRetrained _ => []
  | .spdmSecuredSession _ _ => []
  | .openSlotGrant _ _ => []

/-- Little-endian bytes of a word (R6). -/
def wordBytes (w : Word) : List Byte :=
  (List.range 8).map fun i => w.extractLsb' (8 * i) 8

/-- The word that eight little-endian bytes hold (R6). -/
def bytesWord (l : List Byte) : Word :=
  BitVec.ofNat 64 ((l.take 8).foldr (fun b n => b.toNat + 256 * n) 0)

/-- The eight words of the longest instruction, from bits numbered from the low end of the first word. -/
def tableWords (nbits w : Nat) : List Word :=
  (List.range 8).map fun i => BitVec.ofNat 64 ((w % 2 ^ nbits) >>> (64 * i))

/-- The instruction the decoder reads from the given low bits, all later bits 0. -/
def decodeTableWord (nbits w : Nat) : Option Instr :=
  match decode (tableWords nbits w) with
  | .ok i => some i
  | .error _ => none

end Sys2Proof
end

