-- ==== Sys2Proof/Machine/Flags.lean ====
section
/-! DEFINITION. The sticky flags of FPSTAT (05 R80) and a value computed together with the flags it raises. -/

namespace Sys2Proof.Machine

/-- FPSTAT[5:0]: MODINV, INV, DZ, OF, UF, NX (R80). -/
abbrev Flags := BitVec 6

def fNX : Flags := 0x01
def fUF : Flags := 0x02
def fOF : Flags := 0x04
def fDZ : Flags := 0x08
def fINV : Flags := 0x10
def fMOD : Flags := 0x20

/-- A flag if the condition holds. -/
def flagIf (c : Bool) (f : Flags) : Flags := if c then f else 0

/-- Flags of several lanes are ORed (R80). -/
def orFlags (l : List Flags) : Flags := l.foldl (· ||| ·) 0

/-- The values and the ORed flags of lanes. -/
def gather {α : Type} (l : List (α × Flags)) : List α × Flags := (l.map (·.1), orFlags (l.map (·.2)))

end Sys2Proof.Machine
end

