-- ==== Sys2Proof/Machine/Num.lean ====
section
/-! DEFINITION. Arithmetic (05): exact numbers, the one rounding of R81, clamps, conversions, special functions. -/

namespace Sys2Proof.Machine

open Sys2Proof

/-- An exact value: a NaN, an infinity, or (−1)^neg × n / d. A zero keeps its sign (R79). -/
inductive Num where
  | nan (sig : Bool)
  | inf (neg : Bool)
  | fin (neg : Bool) (n d : Nat)
deriving DecidableEq, Repr

namespace Num

def ofInt (i : Int) : Num := .fin (decide (i < 0)) i.natAbs 1

/-- NEG (R49). -/
def neg : Num → Num
  | .nan s => .nan s
  | .inf b => .inf (!b)
  | .fin b n d => .fin (!b) n d

/-- ABS (R49). -/
def abs : Num → Num
  | .nan s => .nan s
  | .inf _ => .inf false
  | .fin _ n d => .fin false n d

def isNan : Num → Bool
  | .nan _ => true
  | _ => false

def isSig : Num → Bool
  | .nan s => s
  | _ => false

/-- ±0. -/
def isZero : Num → Bool
  | .fin _ n _ => n == 0
  | _ => false

/-- × 2^k, exact (R93 Scale). -/
def scale (k : Int) : Num → Num
  | .fin b n d => if 0 ≤ k then .fin b (n * 2 ^ k.toNat) d else .fin b n (d * 2 ^ (-k).toNat)
  | x => x

/-- A signed numerator over the denominator. -/
def sn : Num → Int
  | .fin b n _ => if b then -(n : Int) else n
  | _ => 0

/-- The sign bit. -/
def sign : Num → Bool
  | .nan _ => false
  | .inf b => b
  | .fin b _ _ => b

/-- a < b among values that are no NaN; −0 equals +0. -/
def lt : Num → Num → Bool
  | .nan _, _ => false
  | _, .nan _ => false
  | .inf a, .inf b => a && !b
  | .inf a, .fin _ _ _ => a
  | .fin _ _ _, .inf b => !b
  | .fin a n d, .fin b m e => decide ((Num.fin a n d).sn * e < (Num.fin b m e).sn * d)

/-- The sum of two finite values, where a zero result is −0 only if both are −0 (R79). -/
def addFin (x y : Num) : Num :=
  match x, y with
  | .fin a n d, .fin b m e =>
    -- over the larger denominator when the smaller divides it
    let q := if e % d = 0 then e else if d % e = 0 then d else d * e
    let t := (Num.fin a n d).sn * (q / d : Nat) + (Num.fin b m e).sn * (q / e : Nat)
    if t = 0 then .fin (a && b && n == 0 && m == 0) 0 1 else .fin (decide (t < 0)) t.natAbs q
  | x, _ => x

/-- An exact sum of terms (R83); no term gives +0. -/
def sum (l : List Num) : Num × Flags :=
  let sig := l.any isSig
  if l.any isNan then (.nan false, flagIf sig fINV)
  else
    let p := l.any (· == .inf false)
    let m := l.any (· == .inf true)
    if p && m then (.nan false, fINV)
    else if p then (.inf false, 0)
    else if m then (.inf true, 0)
    else
      match l with
      | [] => (.fin false 0 1, 0)
      | x :: r => (r.foldl addFin x, 0)

def add (a b : Num) : Num × Flags := sum [a, b]

/-- A product, or a product term of R83: 0 × ∞ is invalid. -/
def mul (a b : Num) : Num × Flags :=
  match a, b with
  | .nan s, y => (.nan false, flagIf (s || y.isSig) fINV)
  | x, .nan s => (.nan false, flagIf (x.isSig || s) fINV)
  | .inf p, y => if y.isZero then (.nan false, fINV) else (.inf (p != y.sign), 0)
  | x, .inf q => if x.isZero then (.nan false, fINV) else (.inf (x.sign != q), 0)
  | .fin p n d, .fin q m e => (.fin (p != q) (n * m) (d * e), 0)

/-- a × b + c, rounded once (R83). -/
def fma (a b c : Num) : Num × Flags :=
  let p := mul a b
  let s := sum [p.1, c]
  (s.1, p.2 ||| s.2 ||| flagIf c.isSig fINV)

/-- a ÷ b (R80, R95). ∞ ÷ ∞, which R80's list does not name, gives the canonical NaN with INV (DESIGN CHOICE, log 77). -/
def div (a b : Num) : Num × Flags :=
  match a, b with
  | .nan s, y => (.nan false, flagIf (s || y.isSig) fINV)
  | x, .nan s => (.nan false, flagIf (x.isSig || s) fINV)
  | .inf _, .inf _ => (.nan false, fINV)
  | .inf p, y => (.inf (p != y.sign), 0)
  | x, .inf q => (.fin (x.sign != q) 0 1, 0)
  | .fin p n d, .fin q m e =>
    if m = 0 then (if n = 0 then (.nan false, fINV) else (.inf (p != q), fDZ))
    else (.fin (p != q) (n * e) (d * m), 0)

/-- minimumNumber, with −0 below +0 (R79). -/
def min (a b : Num) : Num × Flags :=
  let f := flagIf (a.isSig || b.isSig) fINV
  if a.isNan && b.isNan then (.nan false, f)
  else if a.isNan then (b, f)
  else if b.isNan then (a, f)
  else if lt a b || (a.isZero && b.isZero && a.sign) then (a, f) else (b, f)

/-- maximumNumber (R79). -/
def max (a b : Num) : Num × Flags :=
  let f := flagIf (a.isSig || b.isSig) fINV
  if a.isNan && b.isNan then (.nan false, f)
  else if a.isNan then (b, f)
  else if b.isNan then (a, f)
  else if lt b a || (a.isZero && b.isZero && !a.sign) then (a, f) else (b, f)

end Num

/-! ## Roots, powers and logarithms -/

/-- The integer square root, bit by bit from bit `b`. -/
def isqrtBits (n : Nat) : Nat → Nat → Nat
  | 0, r => if (r + 1) * (r + 1) ≤ n then r + 1 else r
  | b + 1, r => isqrtBits n b (if (r + 2 ^ (b + 1)) * (r + 2 ^ (b + 1)) ≤ n then r + 2 ^ (b + 1) else r)

def isqrt (n : Nat) : Nat := isqrtBits n (Nat.log2 n / 2 + 1) 0

/-- √(n / d) as a fraction: exact, or the midpoint of a gap of 2^−256 that holds the root. -/
def sqrtFrac (n d : Nat) : Nat × Nat :=
  let q := n * 2 ^ 512 / d
  let r := isqrt q
  if r * r = q ∧ q * d = n * 2 ^ 512 then (r, 2 ^ 256) else (2 * r + 1, 2 ^ 257)

/-- √x (R111). -/
def numSqrt : Num → Num × Flags
  | .nan s => (.nan false, flagIf s fINV)
  | .inf b => if b then (.nan false, fINV) else (.inf false, 0)
  | .fin b n d =>
    if n = 0 then (.fin b 0 1, 0)
    else if b then (.nan false, fINV)
    else let q := sqrtFrac n d; (.fin false q.1 q.2, 0)

/-- 1 ÷ x (R111). -/
def numRcp : Num → Num × Flags
  | .nan s => (.nan false, flagIf s fINV)
  | .inf b => (.fin b 0 1, 0)
  | .fin b n d => if n = 0 then (.inf b, fDZ) else (.fin b d n, 0)

/-- 1 ÷ √x (R111). -/
def numRsqrt : Num → Num × Flags
  | .nan s => (.nan false, flagIf s fINV)
  | .inf b => if b then (.nan false, fINV) else (.fin false 0 1, 0)
  | .fin b n d =>
    if n = 0 then (.inf b, fDZ)
    else if b then (.nan false, fINV)
    else let q := sqrtFrac d n; (.fin false q.1 q.2, 0)

/-- ln 2 × 2^320, rounded down. -/
def ln2Fix : Nat := 0xb17217f7d1cf79abc9e3b39803f2f6af40f343267298b62d8a0d175b8baafa2be7b876206debac98

/-- Σ y^k / k! for k < `fuel` more terms, in units of 2^−320; `t` is the term reached. -/
def expSeries (y : Nat) : Nat → Nat → Nat → Nat → Nat
  | 0, _, _, acc => acc
  | f + 1, k, t, acc => expSeries y f (k + 1) (t * y / 2 ^ 320 / k) (acc + t)

/-- Σ z^(2k+1) / (2k+1), in units of 2^−320; `t` is the power reached. -/
def atanhSeries (z2 : Nat) : Nat → Nat → Nat → Nat → Nat
  | 0, _, _, acc => acc
  | f + 1, k, t, acc => atanhSeries z2 f (k + 2) (t * z2 / 2 ^ 320) (acc + t / k)

/-- 2^x (R111): exact for an integer, otherwise within 2^−250 of the value (DESIGN CHOICE, log 63). -/
def numExp2 : Num → Num × Flags
  | .nan s => (.nan false, flagIf s fINV)
  | .inf b => if b then (.fin false 0 1, 0) else (.inf false, 0)
  | .fin b n d =>
    let q := n / d
    if q ≥ 4096 then (if b then (.fin false 1 (2 ^ 4096), 0) else (.fin false (2 ^ 4096) 1, 0))
    else if n % d = 0 then (if b then (.fin false 1 (2 ^ q), 0) else (.fin false (2 ^ q) 1, 0))
    else
      -- x = i + r / d with 0 < r < d
      let i : Int := if b then -(q : Int) - 1 else q
      let r := if b then d - n % d else n % d
      let e := expSeries (r * ln2Fix / d) 80 1 (2 ^ 320) 0
      (Num.scale i (.fin false (2 * e + 1) (2 ^ 321)), 0)

/-- ⌊log2 (n / d)⌋. -/
def log2Frac (n d : Nat) : Int :=
  let e : Int := (Nat.log2 n : Int) - Nat.log2 d
  if 0 ≤ e then (if n < d * 2 ^ e.toNat then e - 1 else e)
  else (if n * 2 ^ (-e).toNat < d then e - 1 else e)

/-- log2 x (R111): exact for a power of two, otherwise within 2^−250 of the value (DESIGN CHOICE, log 63). -/
def numLog2 : Num → Num × Flags
  | .nan s => (.nan false, flagIf s fINV)
  | .inf b => if b then (.nan false, fINV) else (.inf false, 0)
  | .fin b n d =>
    if n = 0 then (.inf true, fDZ)
    else if b then (.nan false, fINV)
    else
      let e := log2Frac n d
      let m := if 0 ≤ e then n else n * 2 ^ (-e).toNat
      let q := if 0 ≤ e then d * 2 ^ e.toNat else d
      if m = q then (Num.ofInt e, 0)
      else
        let z := (m - q) * 2 ^ 320 / (m + q)
        let a := atanhSeries (z * z / 2 ^ 320) 120 1 z 0
        ((Num.addFin (Num.ofInt e) (.fin false (2 * (2 * a) + 1) (2 * ln2Fix))), 0)

/-! ## Reading types -/

/-- The least and greatest value of an integer type (R75). -/
def tyLo : Ty → Int
  | .i4 => -8 | .i8 => -128 | .i16 => -32768 | .i32 => -2147483648 | .i64 => -9223372036854775808
  | _ => 0
def tyHi : Ty → Int
  | .i4 => 7 | .i8 => 127 | .i16 => 32767 | .i32 => 2147483647 | .i64 => 9223372036854775807
  | t => 2 ^ t.width - 1

/-- Prefixed i: two's complement (R69). -/
def Ty.isSigned (t : Ty) : Bool := tyLo t != 0

/-- The low `w` bits read as two's complement. -/
def signedOf (w x : Nat) : Int := if x % 2 ^ w < 2 ^ (w - 1) then (x % 2 ^ w : Nat) else (x % 2 ^ w : Nat) - (2 ^ w : Nat)

/-- Exponent and fraction bits of a floating type (R78). -/
def fmtOf : Ty → Nat × Nat
  | .f32 => (8, 23)
  | .f16 => (5, 10)
  | _ => (8, 7)

def fmtBias (t : Ty) : Nat := 2 ^ ((fmtOf t).1 - 1) - 1

/-- The canonical NaN (R78). -/
def canonNan : Ty → Nat
  | .f32 => 0x7FC00000
  | .f16 => 0x7E00
  | _ => 0x7FC0

/-- A floating-point element (R78, R79). -/
def floatOf (t : Ty) (x : Nat) : Num :=
  let eb := (fmtOf t).1
  let mb := (fmtOf t).2
  let m := x % 2 ^ mb
  let e := x / 2 ^ mb % 2 ^ eb
  let s := x / 2 ^ (mb + eb) % 2 == 1
  if e = 2 ^ eb - 1 then (if m = 0 then .inf s else .nan (decide (m < 2 ^ (mb - 1))))
  else
    let k : Int := (if e = 0 then 1 else (e : Int)) - fmtBias t - mb
    Num.scale k (.fin s (if e = 0 then m else 2 ^ mb + m) 1)

/-- An mx element of code bits `x` under scale code `e` (R87). -/
def mxOf (t : Ty) (x e : Nat) : Num :=
  let w := match t with
    | .mx4 => 4 | .mx6 => 6 | .mx8 => 8 | .mx10 => 10 | .mx12 => 12 | .mx14 => 14 | _ => 16
  if e = 0xFF then .nan false
  else Num.scale ((e : Int) - 127 - (w - 2 : Nat)) (Num.ofInt (signedOf w x))

/-- The code width of an mx format (R87). -/
def mxBits : Ty → Nat
  | .mx4 => 4 | .mx6 => 6 | .mx8 => 8 | .mx10 => 10 | .mx12 => 12 | .mx14 => 14 | _ => 16

/-- An element of a type as an exact value. -/
def numOf (t : Ty) (x : Nat) : Num :=
  if t.isFloat then floatOf t x
  else if Ty.isSigned t then Num.ofInt (signedOf t.width x)
  else Num.ofInt ((x % 2 ^ t.width : Nat) : Int)

/-! ## Rounding, clamping and wrapping (R81) -/

/-- n / d to the nearest natural number, ties to even, and whether it is inexact. -/
def rne (n d : Nat) : Nat × Bool :=
  let q := n / d
  let r := n % d
  if 2 * r > d ∨ (2 * r = d ∧ q % 2 = 1) then (q + 1, r != 0) else (q, r != 0)

/-- A finite value to the nearest integer, ties to even. -/
def rneInt (b : Bool) (n d : Nat) : Int × Bool :=
  let q := rne n d
  (if b then -(q.1 : Int) else q.1, q.2)

/-- n / d in units of 2^k. -/
def rneUnit (n d : Nat) (k : Int) : Nat × Bool :=
  if 0 ≤ k then rne n (d * 2 ^ k.toNat) else rne (n * 2 ^ (-k).toNat) d

/-- Round to a floating type, with the flags of R80 (DEDUCED, log 62). -/
def roundFloat (t : Ty) : Num → Nat × Flags
  | .nan _ => (canonNan t, 0)
  | .inf b => ((if b then 2 ^ ((fmtOf t).1 + (fmtOf t).2) else 0) + (2 ^ (fmtOf t).1 - 1) * 2 ^ (fmtOf t).2, 0)
  | .fin b n d =>
    let eb := (fmtOf t).1
    let mb := (fmtOf t).2
    let sb := if b then 2 ^ (eb + mb) else 0
    let infBits := (2 ^ eb - 1) * 2 ^ mb
    if n = 0 then (sb, 0)
    else
      let emin : Int := 1 - (fmtBias t : Int)
      let e := log2Frac n d
      let qmin := emin - mb
      let q := (if e < emin then emin else e) - mb
      let m := rneUnit n d q
      let bits := (q - qmin).toNat * 2 ^ mb + m.1
      if bits ≥ infBits then (sb + infBits, fOF ||| fNX)
      else
        -- tininess after rounding, the exponent unbounded (R80)
        let tiny := decide (e < emin) && !(e == emin - 1 && (rneUnit n d (e - mb)).1 == 2 ^ (mb + 1))
        (sb + bits, flagIf m.2 fNX ||| flagIf (tiny && m.2) fUF)

/-- An integer in `w` bits, modulo 2^w. -/
def wrapBits (w : Nat) (i : Int) : Nat := (i % (2 ^ w : Nat)).toNat

/-- Step 5 of R81 for integers. -/
def clampInt (t : Ty) (clp : Nat) (i : Int) : Int :=
  match clp with
  | 0 => i
  | 1 => if i < tyLo t then tyLo t else if tyHi t < i then tyHi t else i
  | _ => if i < 0 then 0 else if tyHi t < i then tyHi t else i

/-- Step 5 of R81 for floating types, on the rounded bits. -/
def clampFloat (t : Ty) (clp : Nat) (bits : Nat) : Nat :=
  let x := floatOf t bits
  let one := (roundFloat t (.fin false 1 1)).1
  let mone := (roundFloat t (.fin true 1 1)).1
  if clp = 0 ∨ x.isNan then bits
  else if clp = 1 then
    (if Num.lt (.fin false 1 1) x then one else if Num.lt x (.fin true 1 1) then mone else bits)
  else if x.sign then 0
  else if clp = 3 ∧ Num.lt (.fin false 1 1) x then one
  else bits

/-- Steps 3 to 6 of R81: Finish of R93, for element bits of type `t`. -/
def finish (t : Ty) (clp : Nat) (scl : Int) (x : Num) : Nat × Flags :=
  let y := x.scale scl
  if t.isFloat then
    let r := roundFloat t y
    (clampFloat t clp r.1, r.2)
  else
    match y with
    | .fin b n d => (wrapBits t.width (clampInt t clp (rneInt b n d).1), 0)
    | _ => (0, 0)

/-- Rounding of a conversion to an integer type: a source outside the range saturates, and none wraps (R82, R104). A source out
of range raises INV without NX (DESIGN CHOICE, log 77). -/
def cvtInt (t : Ty) : Num → Int × Flags
  | .nan _ => (0, fINV)
  | .inf b => (if b then tyLo t else tyHi t, fINV)
  | .fin b n d =>
    if Num.lt (.fin b n d) (Num.ofInt (tyLo t)) then (tyLo t, fINV)
    else if Num.lt (Num.ofInt (tyHi t)) (.fin b n d) then (tyHi t, fINV)
    else
      let r := rneInt b n d
      (r.1, flagIf r.2 fNX)

/-- A conversion (R82, R104, R112): scale, one rounding, clamp. A signalling NaN raises invalid (R79). -/
def convert (t : Ty) (clp : Nat) (scl : Int) (x : Num) : Nat × Flags :=
  let y := x.scale scl
  if t.isFloat then
    let r := roundFloat t y
    (clampFloat t clp r.1, r.2 ||| flagIf x.isSig fINV)
  else
    let r := cvtInt t y
    (wrapBits t.width (clampInt t clp r.1), r.2)

/-! ## Integer edge cases (R77) -/

/-- The truncated quotient. The most negative value ÷ −1 is already wrapped (R77) as steps 3 to 6 of R81 take it, so SCL and CLP
act on the most negative value (DESIGN CHOICE, log 101). -/
def quotInt (t : Ty) (a b : Int) : Int :=
  if b = 0 then (if Ty.isSigned t then -1 else tyHi t)
  else if Ty.isSigned t ∧ a = tyLo t ∧ b = -1 then tyLo t
  else Int.tdiv a b

/-- The remainder, with the sign of the dividend. -/
def remInt (a b : Int) : Int := if b = 0 then a else Int.tmod a b

/-- a ÷ b as R95 and R109 read it for the type. -/
def divNum (t : Ty) (a b : Num) : Num × Flags :=
  if t.isFloat then a.div b else (Num.ofInt (quotInt t a.sn b.sn), 0)

/-- Lesser and greater by type: no flag for integers. -/
def minNum (a b : Num) : Num × Flags := Num.min a b
def maxNum (a b : Num) : Num × Flags := Num.max a b

/-! ## Bits -/

def shlBits (w x c : Nat) : Nat := if c ≥ w then 0 else x * 2 ^ c % 2 ^ w
def shrBits (w x c : Nat) : Nat := if c ≥ w then 0 else x % 2 ^ w / 2 ^ c
def sarBits (w x c : Nat) : Nat := wrapBits w (signedOf w x / (2 ^ (if c ≥ w then w else c) : Nat))
def rotlBits (w x c : Nat) : Nat :=
  let k := c % w
  (x % 2 ^ w * 2 ^ k % 2 ^ w) + x % 2 ^ w / 2 ^ (w - k)

/-- Number of one bits among the low `w`. -/
def popBits (w x : Nat) : Nat := ((List.range w).filter fun i => x.testBit i).length
/-- Leading zeros in width `w` (R99). -/
def clzBits (w x : Nat) : Nat := if x % 2 ^ w = 0 then w else w - 1 - Nat.log2 (x % 2 ^ w)
/-- Trailing zeros in width `w` (R99). -/
def ctzBits (w x : Nat) : Nat := ((List.range w).takeWhile fun i => !x.testBit i).length

/-- The comparison of R100: −1, 0, +1, or +2 when unordered. -/
def cmpNum (a b : Num) : Int :=
  if a.isNan || b.isNan then 2 else if Num.lt a b then -1 else if Num.lt b a then 1 else 0

/-- A modulus is valid when it is odd and 3 ≤ q < 2^62 (R86). -/
def modValid (q : Nat) : Bool := q % 2 == 1 && decide (3 ≤ q) && decide (q < 2 ^ 62)

/-- The canonical residue (R86). -/
def modQ (q : Nat) (i : Int) : Nat := (i % (q : Int)).toNat

/-- Stochastic rounding of an f32 to bf16 with a 16-bit value (R85). -/
def stochastic (x r : Nat) : Nat × Flags :=
  match floatOf .f32 x with
  | .nan s => (0x7FC0, flagIf s fINV)
  | .inf _ => (x / 2 ^ 16 % 2 ^ 16, 0)
  | _ =>
    let m0 := x % 2 ^ 31 + r % 2 ^ 16
    let ovf := decide (m0 ≥ 0x7F800000)
    let m := if ovf then 0x7F800000 else m0
    let out := (x / 2 ^ 31 % 2) * 2 ^ 15 + m / 2 ^ 16 % 2 ^ 15
    let cut := x % 2 ^ 16 != 0
    (out, flagIf ovf (fOF ||| fNX) ||| flagIf cut fNX ||| flagIf (cut && decide (out % 2 ^ 15 < 2 ^ 7)) fUF)

end Sys2Proof.Machine
end

