-- ==== Sys2Proof/Config.lean ====
section
/-! DEFINITION. What the spec leaves open: free values and functions that no proof can see through, and the fixed
numbers of the package (02 R12). -/

namespace Sys2Proof.Config

/-- A byte that another package answers to a read (13 R270, 21 R339: its storage is not this package's) (DESIGN CHOICE, log 2 and 68). -/
opaque extByte : Nat → Byte

/-- A byte the host node answers to a read of its window (21 R339: the host node decides what lies there) (DESIGN CHOICE, log 2 and 68). -/
opaque hostByte : Nat → Byte

/-- Whether the host node or another package answers an access as outside its window or not reachable (21 R339) (DESIGN CHOICE, log 68). -/
opaque hostOutside : Nat → Bool

/-- Whether the source package of a migration answers (12 R256, 14 R291) (DESIGN CHOICE, log 68). -/
opaque sourceLost : Nat → Bool

/-- A byte of a saved context image after its header: the layout is not documented (15 R304) (DESIGN CHOICE, log 2). -/
opaque imageByte : Nat → Byte

/-- What another package answers to the walk of a page it owns, under a key made of the die, the shard's root and the page
(13 R271: its page tables are its own): modulo 4, 0 the page is there, 1 cause 0x10, 2 cause 0x11, 3 cause 0x19; the
quotient is its profile-set number (DESIGN CHOICE, log 68). -/
opaque extWalk : Nat → Nat → Nat → Nat

/-- A byte of a tenant's frame area, whose layout is not documented (12 R232, 15 R303) (DESIGN CHOICE, log 69). -/
opaque frameByte : Nat → Byte

/-- The board carries the security controller's monotonic counter (13 R275) (DESIGN CHOICE, log 67). -/
opaque hasCounter : Bool

/-- A fabric port fails its training at a boot, by boot count and port (21 R345) (DESIGN CHOICE, log 57). -/
opaque portFails : Nat → Nat → Bool

/-- The responder's ECDSA key, and the nonce of a signature (13 R275) (DESIGN CHOICE, log 67). -/
opaque ecdsaKey : Nat
opaque ecdsaNonce : Nat → Nat

/-- Identifier and seed of an LMS tree, and the randomizers of its signatures: tree 0 is the top one, tree n + 1 that of boot n
(13 R275) (DESIGN CHOICE, log 67). -/
opaque hssId : Nat → BitVec 128
opaque hssSeed : Nat → BitVec 256
opaque hssRand : Nat → Nat → BitVec 256

/-- The public keys that firmware is verified under: ECDSA P-384, and the 56 bytes of the top tree's (14 R296) (DESIGN CHOICE, log 67). -/
opaque firmwareEcdsaKey : Nat × Nat
opaque firmwareHssKey : List Byte

/-- The parts of a firmware image, whose layout is not documented: what is signed, its ECDSA signature, its HSS signature
(14 R296) (DESIGN CHOICE, log 67). -/
opaque firmwareParts : List Byte → List Byte × List Byte × List Byte

/-- An option of SPDM that an exchange names: one that the spec's table names, or another (00 R8). -/
inductive SpdmOption where
  | spdm13 | responder | measurements | ecdhe384 | sha384 | ecdsaP384 | aes256gcm | other
deriving DecidableEq, Repr

/-- The options that the bytes of an SPDM exchange name, in the standard's coding (00 R8; 13 R275) (DESIGN CHOICE, log 67). -/
opaque spdmOptions : List Byte → List SpdmOption

/-- What an SPDM exchange answers, in the standard's coding (13 R275) (DESIGN CHOICE, log 67). -/
opaque spdmAnswer : Nat → List Byte → List Byte

/-- The AES-256 key and the initial nonce of a session, by the number of its opening (13 R275, R277) (DESIGN CHOICE, log 67). -/
opaque sessionKey : Nat → BitVec 256
opaque sessionIv : Nat → BitVec 96
/-- Those of its replies (DESIGN CHOICE, log 67). -/
opaque replyKey : Nat → BitVec 256
opaque replyIv : Nat → BitVec 96

/-- The nonce of a MEASUREMENTS response (13 R275) (DESIGN CHOICE, log 67). -/
opaque spdmNonce : Nat → BitVec 256

/-- What the monitors of a physical die measure, by die, cycle and field of the health report (14 R295) (DESIGN CHOICE, log 67). -/
opaque health : Nat → Nat → Nat → Nat

/-- Dies of a package (R12). -/
abbrev dies : Nat := 4
/-- Groups of a package (R12). -/
abbrev groups : Nat := 64
/-- Cores of a package, service cores apart (R12). -/
abbrev cores : Nat := 256
/-- Partitions (R21). -/
abbrev partitions : Nat := 16
/-- Bytes of a tile image (07 R126). -/
abbrev tileBytes : Nat := 0x8880
/-- Bytes of a near store (R22). -/
abbrev nearBytes : Nat := 0x80000
/-- Bytes of a die's bank memory (R17). -/
abbrev bankBytes : Nat := 0x8000000
/-- Bytes of a die's three stacks (R12: 3 stacks of 80 GB) (DESIGN CHOICE, log 59). -/
abbrev hbmBytes : Nat := 240000000000
/-- Bytes of one stack (R22). -/
abbrev stackBytes : Nat := 80000000000
/-- The empty tag (R261). -/
abbrev emptyTag : Tag := 0xFFF

end Sys2Proof.Config
end

