-- ==== Sys2Proof/Machine/State.lean ====
section
/-! DEFINITION. The state of the package as plain data (02 R22 and the rules INVENTORY.md names), and the state right
after reset. -/

namespace Sys2Proof.Machine

open Sys2Proof

/-! ## Sparse tables -/

/-- A table by number: keys strictly rising, entries equal to the table's default not listed. -/
abbrev Tab (α : Type) := List (Nat × α)

/-- The entry under a key, if listed. -/
def tfind {α : Type} : Tab α → Nat → Option α
  | [], _ => none
  | (k, v) :: l, n => if n = k then some v else if n < k then none else tfind l n

/-- The entry under a key, the default where none is listed. -/
def tget {α : Type} (t : Tab α) (n : Nat) (d : α) : α := (tfind t n).getD d

/-- The table without a key. -/
def terase {α : Type} : Tab α → Nat → Tab α
  | [], _ => []
  | (k, v) :: l, n => if n = k then l else if n < k then (k, v) :: l else (k, v) :: terase l n

/-- The table with a key's entry listed. -/
def tset {α : Type} : Tab α → Nat → α → Tab α
  | [], n, x => [(n, x)]
  | (k, v) :: l, n, x =>
    if n = k then (k, x) :: l else if n < k then (n, x) :: (k, v) :: l else (k, v) :: tset l n x

/-- Write an entry; the default value is not listed. -/
def tput {α : Type} [DecidableEq α] (d : α) (t : Tab α) (n : Nat) (x : α) : Tab α :=
  if x = d then terase t n else tset t n x

/-- Keys strictly rising. -/
def tsorted {α : Type} : Tab α → Bool
  | [] => true
  | [_] => true
  | (k, _) :: (k', v') :: l => decide (k < k') && tsorted ((k', v') :: l)

/-! ## Storage -/

/-- Why a tag unit is poisoned: uncorrectable data (cause 0x19) or a lost source (cause 0x18) (14 R291, R292). -/
inductive Poison where
  | data | source
deriving DecidableEq, Repr

/-- A storage array: bytes, a tag for each tag unit, and the poisoned units. An unlisted byte is 0 and an unlisted tag is
the empty tag (13 R261, 21 R345) (DESIGN CHOICE, log 8). -/
structure Memory where
  cells : List Host.Cell := []
  tags : Tab Tag := []
  poison : Tab Poison := []
deriving DecidableEq, Repr

/-- The canonical form: addresses rising, no byte 0 listed, no empty tag listed. -/
def Memory.wf (m : Memory) : Bool :=
  tsorted m.cells && m.cells.all (fun c => c.2 != 0) && tsorted m.tags
    && m.tags.all (fun c => c.2 != Config.emptyTag) && tsorted m.poison

/-- A storage array of the package (02 R17, R22). `ext` is another package's storage; `dev` holds what a die's device
shows the supervisor in partition 0 storage: its error log, counter blocks and health report (14 R293, R295; 21 R342). -/
inductive Store where
  | hbm (die : Nat)
  | bank (die : Nat)
  | near (core : Nat)
  | tiles (core : Nat)
  | dev (die : Nat)
  | ext (pkg : Nat)
  | host
deriving DecidableEq, Repr

/-- A checking point, which holds its own copy of G[p] (13 R262): base die by stack, bank by bank, ingress by port and by
host node. The events and flags of a partition have one home each (DESIGN CHOICE, log 70). -/
inductive Point where
  | hbm (die stack : Nat)
  | port (die : Nat)
  | tiles (core : Nat)
  | near (core : Nat)
  | bank (die k : Nat)
  | queue (core : Nat)
  | core (core : Nat)
  | flags (group : Nat)
  | events
  | blocks (die : Nat)
  /-- Fabric ports 0-7 of a die, and 11, its endpoint. -/
  | ingress (die port : Nat)
  | hostNode (id : Nat)
deriving DecidableEq, Repr

/-- What a part of a store is to its line and to its store (08 R155; 13 R263; 21 R341): `line` when the store covers the
whole tag unit the part lies in, `last` the last of its parts there, `nth` its place among the parts of the store, `ends`
the last of them. -/
structure Piece where
  line : Bool := false
  last : Bool := true
  nth : Nat := 0
  ends : Bool := true
deriving DecidableEq, Repr

/-- The place of one element: an array, a byte address in it, and for a 4-bit element the nibble (true = high). -/
structure Place where
  store : Store
  addr : Nat
  nib : Option Bool := none
deriving DecidableEq, Repr

/-! ## Threads -/

/-- A window position or a passed value: a scalar, a vector, or one of either kind whose data is lost (04 R50, 14 R292). -/
inductive Val where
  | s (w : Word)
  | v (x : Vec)
  | lostS
  | lostV
deriving DecidableEq, Repr

/-- A call frame (12 R232). -/
structure Frame where
  ret : Word
  window : List Val
  lost : Bool := false
  /-- The tag of the tenancy that made it (R232, 13 R262). -/
  tag : Tag := Config.emptyTag
deriving DecidableEq, Repr

/-- How a soft pre-emption left a loop (11 R226): `j` the resume index, `vals` the drained values still to come, and the
window kept. -/
inductive LoopMode where
  | normal
  /-- Running the drain: the kept window and the values appended so far, oldest first. -/
  | drain (j : Nat) (kept : List Val) (vals : List Val)
  /-- Drained and stopped, or refilling: the drained values not yet used. -/
  | refill (j : Nat) (vals : List Val)
deriving DecidableEq, Repr

/-- The loop engine inside a body (12 R233). -/
structure LoopState where
  loopPc : Word
  lendPc : Word
  trip : Nat
  stages : Nat
  k : Nat
  /-- Positions appended by one kernel iteration (R226). -/
  v : Nat
  outer : List Val
  mode : LoopMode := .normal
deriving DecidableEq, Repr

/-- What a cause reports (14 R281-R283). -/
structure Trap where
  cause : Nat
  reason : Nat := 0
  eng : Bool := false
  /-- 0 none or code, 1 flat address, 2 handle. -/
  kind : Nat := 0
  info : Nat := 0
  c01 : Word := 0
  c23 : Word := 0
  issue : Nat := 0
  upc : Nat := 0
  /-- The record a record cause comes from (12 R247). -/
  rid : Option Nat := none
  /-- Die and location of a poisoned translation structure, named in an error record (R292). -/
  errAt : Option (Nat × Nat) := none
deriving DecidableEq, Repr

/-- Thread state other than a window position whose data is lost (14 R292). -/
inductive Lost where
  | sslot (n : Nat)
  | vslot (n : Nat)
  | pred (n : Nat)
deriving DecidableEq, Repr

/-- The operation of an atomic (10 R198, 21 R337). -/
inductive AmoOp where
  | add | min | max | and_ | or_ | xor_ | swap | cas | fadd | madd
deriving DecidableEq, Repr

/-- An atomic on its way to its home (10 R198). -/
structure AmoReq where
  op : AmoOp
  ty : Ty
  place : Place
  /-- Its bytes, where they lie in more than one granule; `place` is the first of them. -/
  parts : List Place := []
  b : Word
  c : Word
  tag : Tag
  trap : Trap
deriving DecidableEq, Repr

/-- What a waiting thread waits for (10 R208 and the waits of R135, R137, R158, R165, R167, R170, R219, R301, R306) (DEDUCED, log 12). -/
inductive Wait where
  /-- A flag has reached a value as a cycle ends (10 R206): the order and scope of the access that ends so. -/
  | flag (group idx : Nat) (v : BitVec 32) (ord scope : Nat)
  /-- An event bit is 1 as a cycle ends (10 R207), likewise. -/
  | event (bit ord scope : Nat)
  /-- The `n` oldest unreserved entries of queue `q` are ready. -/
  | qready (q n : Nat)
  /-- Queue `q` has `n` free entries. -/
  | qspace (q n : Nat)
  /-- Queue `q` holds `n` unreserved entries (12 R251). -/
  | qheld (q n : Nat)
  /-- The named record queues have room: matrix, copy, collective. -/
  | recSpace (m c l : Bool)
  /-- No queue load of the thread is unsettled (10 R196). -/
  | loads
  /-- The thread's increment, issued under an order that acquires, is performed at its home (08 R162, 10 R204). -/
  | performed (seqs : List Nat)
  /-- These copy records of the core, issued before a `sync`, have completed (08 R167, 09 R177). -/
  | copies (recs : List Nat)
  /-- The writes with these sequence numbers of the thread's die are applied (08 R157, R158). -/
  | applied (seqs : List Nat)
  /-- Every write that an order of this scope covers is visible (08 R162, R170). -/
  | order (scope : Nat) (clock : Tab Nat)
  /-- The same after an sc access that has been performed, with what it appends (08 R162). -/
  | after (scope : Nat) (clock : Tab Nat) (vals : List Val) (flags : BitVec 6)
  /-- The barrier of this level (10 R202). -/
  | sync (level : Nat)
  /-- Writes that passed translation before `seal` are applied (08 R165). -/
  | seal (handle : Nat) (seqs : List (Nat × Nat))
  /-- The release that ends a `seal` (08 R165). -/
  | sealRel (handle : Nat) (clock : Tab Nat)
  /-- Earlier `seal` and `unseal` of the handle have completed (10 R185). -/
  | sealTurn (handle : Nat)
  /-- Earlier `seal` and `unseal` of the handle have completed, and for `unseal` no replica is in use (08 R166, 10 R185). -/
  | unseal (handle : Nat)
  /-- The array lease is granted (07 R137). -/
  | lease
  /-- No plain matrix record of the core is left (07 R137). -/
  | unlease
  /-- These records have completed and these reservations have ended (07 R137). -/
  | mwait (recs : List Nat) (rsv : List (Nat × Nat))
  /-- These records and reservations, there when the instruction was issued, hold the tile no more (07 R135). -/
  | tile (t : Nat) (write : Bool) (recs : List Nat) (rsv : List (Nat × Nat))
  /-- The reply of an atomic. -/
  | amo (r : AmoReq)
  /-- The old value of an atomic has come back, with the flags it raised. -/
  | amoDone (old : Word) (flags : BitVec 6)
  /-- Running records of a partition have finished (13 R265 step 5). -/
  | dusk (part : Nat)
  /-- A context removal has finished (15 R301), started when p's generation was `gen`. -/
  | halt (part : Nat) (gen : BitVec 8)
  /-- A partition has stopped and settled (15 R304). -/
  | ctxsave (part : Nat)
  /-- The instruction of another service core on the partition has completed (15 R300). -/
  | control (part : Nat)
  /-- A cut has reached step 4 (14 R290). -/
  | cut (job : Nat)
  /-- A notice is pending (15 R306). -/
  | idle
deriving DecidableEq, Repr

/-- What a thread is doing. -/
inductive Status where
  | off
  | running
  | waiting (w : Wait)
  | trapped
  | stopped
  | done
deriving DecidableEq, Repr

/-- Single step (14 R286). -/
inductive StepMode where
  | none | armed | fired
deriving DecidableEq, Repr

/-- A translated block: its key and its words (03 R43, R44). -/
structure Block where
  part : Nat
  gen : Nat
  addr : Nat
  /-- The versions of profiles 1-5 (R42). -/
  profiles : List Nat
  words : List Word
  /-- Frame places the words were read from, for invalidation. -/
  page : Nat
deriving DecidableEq, Repr

/-- A thread (02 R22; 04 R50; 11 R218; 12 R232, R233; 14 R282-R286) (DESIGN CHOICE, log 7). -/
structure Thread where
  status : Status := .off
  pc : Word := 0
  /-- Newest first. -/
  window : List Val := []
  sslots : Tab Word := []
  vslots : Tab Vec := []
  preds : Tab Pred := []
  mods : Tab Word := []
  fpstat : BitVec 6 := 0
  trapinfo : Word := 0
  hint : BitVec 3 := 0
  /-- Newest first. -/
  frames : List Frame := []
  loop : Option LoopState := none
  /-- SEQ: causes taken since launch start (R281). -/
  seq : Nat := 0
  /-- Causes ready and not yet taken (R284). -/
  pend : List Trap := []
  /-- The cause being answered continues at the next word after `tret` (R283). -/
  cont : Bool := false
  /-- It had executed `done` when it took the cause it is stopped at (R247). -/
  fin : Bool := false
  /-- The record whose cause is being answered (12 R247). -/
  ansRec : Option Nat := none
  stepMode : StepMode := .none
  /-- A soft stop is asked for (11 R226). -/
  soft : Bool := false
  /-- A hard stop is asked for at the next boundary (11 R225). -/
  hard : Bool := false
  blk : Option Block := none
  /-- The word at pc was reached by a transfer: a block head there makes no check of its own (04 R53). -/
  entered : Bool := false
  /-- The thread has executed no word since launch entry: a head there must declare arity 3 and no vector (04 R54). -/
  atEntry : Bool := false
  /-- Lost writes not yet reported (08 R169). -/
  lostWrites : List Trap := []
  lost : List Lost := []
  /-- `sync` instructions completed at each level (10 R202). -/
  syncs : Tab Nat := []
  /-- Tag of its window positions, slots, predicates and modulus slots (13 R262) (DEDUCED, log 71). -/
  tag : Tag := Config.emptyTag
deriving DecidableEq, Repr

/-! ## Records, queues, cores -/

/-- The engine records (12 R243; 07 R139). -/
inductive RecOp where
  | mmul | mmulc | mmod | mtr | cp | cpcv | cpdz | cpbk | coll | mig | migrep | note
deriving DecidableEq, Repr

/-- Queued, running on a context, or held by a fault at its counter (12 R243, R247). -/
inductive RecStatus where
  | queued | running | held
deriving DecidableEq, Repr

/-- A Zstandard FSE table as normalised counts, with its accuracy (RFC 8878, 12 R253). -/
structure FseTable where
  log : Nat
  counts : List Int
deriving DecidableEq, Repr

/-- The decoder state a `cpdz` record carries between blocks (12 R245). -/
structure ZState where
  inPos : Nat := 0
  outPos : Nat := 0
  size : Nat := 0
  window : Nat := 0
  checksum : Bool := false
  lastDone : Bool := false
  /-- The end of the frame has been checked (12 R253). -/
  ended : Bool := false
  /-- The dictionary is still to be read: the identifier the header names, and the reasons found in the header. -/
  header : Option (Nat × List Nat) := none
  /-- Bytes fetched for the next part of the stream, a beat at a time (11 R223). -/
  got : List Byte := []
  /-- Output of the block at work that is still to be written, which ends at `outPos`. -/
  pend : List Byte := []
  /-- Weights of the Huffman table, symbol by symbol. -/
  huff : List Nat := []
  ll : Option FseTable := none
  off : Option FseTable := none
  ml : Option FseTable := none
  reps : List Nat := [1, 4, 8]
  dict : List Byte := []
deriving DecidableEq, Repr

/-- A block of a cooperative product being worked on: the array (participant) and the block number (07 R145). -/
structure ArrayWork where
  array : Nat
  block : Nat
  stolen : Bool
deriving DecidableEq, Repr

/-- A record in a queue (04 R65; 12 R243-R247). -/
structure Rec where
  id : Nat
  op : RecOp
  /-- Issued by the execute thread. -/
  exe : Bool
  pc : Word
  r : FmtR
  /-- Values of the overrides (R67). -/
  ov : List Word
  tag : Tag
  status : RecStatus := .queued
  /-- It has passed its checks at start. -/
  started : Bool := false
  /-- Copy engine, or 0 (11 R222). -/
  engine : Nat := 0
  upc : Nat := 0
  /-- Modulus read at issue (07 R147). -/
  q : Word := 0
  /-- Level and number of a collective (R255). -/
  collNo : Nat := 0
  /-- Live ticks left of a deadline, and whether it was missed (R256). -/
  deadline : Option Nat := none
  missed : Bool := false
  /-- FPSTAT flags raised so far (05 R92). -/
  flags : BitVec 6 := 0
  /-- Arrays held and blocks at work of a cooperative product (07 R144, R145). -/
  arrays : List Nat := []
  /-- Cycle at which the wait for the next array began. -/
  waitFrom : Nat := 0
  work : List ArrayWork := []
  /-- Completed blocks (R150). -/
  doneBlocks : List Nat := []
  z : Option ZState := none
  /-- Records ahead of a marker in each named queue that have not completed (11 R221). -/
  ahead : List Nat := []
  /-- What its release waits for, once its last write has been issued (08 R164). -/
  relClock : Option (Tab Nat) := none
  /-- Place in the order in which the package's records were issued (11 R222). -/
  issued : Nat := 0
  /-- Age as a waiter for its engine (11 R223). -/
  age : Nat := 0
  /-- It has started, and has come back from a shadow bank without a context of its engine: it waits for one (11 R222). -/
  parked : Bool := false
  /-- Tile addresses of the bitmap bytes it has written (07 R130). -/
  bitmap : List Nat := []
  /-- What a fault has taken from its queue destination and is to be reserved again: of each entry its place in the order of
  pushes, and the record that had reserved it (12 R250, R251). -/
  gone : List (Nat × Option Nat) := []
  /-- The fault of one array's block, kept until the other arrays' blocks have ended (07 R150). -/
  fault : Option Trap := none
deriving DecidableEq, Repr

/-- A lane of a queue load: where it comes from, the bit of the entry it fills from, and its width in bits. -/
structure Lane where
  place : Place
  dst : Nat
  len : Nat
deriving DecidableEq, Repr

/-- The state of a queue entry (10 R192): its request is out, its reply has come, or it is ready. -/
inductive EntryStatus where
  | asked (lanes : List Lane)
  | replied
  | ready
deriving DecidableEq, Repr

/-- An entry of a data queue (10 R192-R195). -/
structure Entry where
  status : EntryStatus := .ready
  data : Vec := 0
  tag : Tag := Config.emptyTag
  poison : Option Poison := none
  /-- The access thread at the queue load, restored if the load faults (R195). -/
  ckpt : Option Thread := none
  /-- The cause the load reports if its data is poisoned. -/
  trap : Trap := { cause := 0x19 }
  /-- The cause its translation has met, reported when the entry would become ready (R195). -/
  fault : Option Trap := none
  /-- The record that fills the entry (R250) or has reserved it (R251). -/
  filler : Option Nat := none
  taker : Option Nat := none
  /-- Place in the order in which the access thread pushed entries into the core's queues (R195). -/
  issue : Nat := 0
  /-- Bytes that have landed of a record's copy (R250). -/
  landed : Nat := 0
  /-- One more than the cycle in which it was pushed, and than the one in which it became ready (10 R194); 0 for none. -/
  pushed : Nat := 0
  readied : Nat := 0
deriving DecidableEq, Repr

/-- A bit-network pattern and its tag (06 R103; 11 R215). -/
structure Pattern where
  bits : BitVec 512 := 0
  tag : Tag := Config.emptyTag
deriving DecidableEq, Repr

/-- The lease of a core (07 R136-R138). -/
structure Lease where
  claim : Bool := false
  tenure : Bool := false
  /-- The thread whose `lease` waits for the first grant of the claim (R137). -/
  asker : Option Nat := none
  recs : Nat := 0
  /-- Cycle of the current grant. -/
  since : Nat := 0
  /-- A record completed in this tenure (R136). -/
  completed : Bool := false
  /-- Cycle at which the wait began; age is the wait times the weight (11 R223). -/
  waitFrom : Nat := 0
  /-- The array is lent to the record of this core-in-die (R138). -/
  lender : Option Nat := none
deriving DecidableEq, Repr

/-- WDOG (11 R229). -/
structure Wdog where
  left : Nat := 0
  grace : BitVec 8 := 0x10
  fired : Bool := false
  mode : Bool := false
  /-- The cycle in which LEFT reached 0, until its expiry is settled (R230). -/
  zeroAt : Nat := 0
deriving DecidableEq, Repr

/-- A TLB entry (13 R272). -/
structure TlbEntry where
  handle : Nat
  tag : Tag
  version : Nat
  shard : Nat
  /-- First page number and how many it maps. -/
  page : Nat
  pages : Nat
  die : Nat
  frame : Nat
  r : Bool
  w : Bool
  x : Bool
  pfset : Nat
deriving DecidableEq, Repr

/-- A tile of this core reserved by a cooperative record: leader core, record, tile, written (07 R146). -/
structure Reservation where
  leader : Nat
  rid : Nat
  tile : Nat
  write : Bool
deriving DecidableEq, Repr

/-- A core (02 R22). -/
structure Core where
  tiles : Memory := {}
  near : Memory := {}
  /-- Data queues, oldest entry first. -/
  queues : Tab (List Entry) := []
  /-- Records whose reserved entries a fault of a queue load has discarded, for each queue: the next entries pushed are
  theirs (10 R195, 12 R251). -/
  owed : Tab (List Nat) := []
  patterns : Tab Pattern := []
  /-- Record queues, oldest first; running records stay in their queue until they complete. -/
  matQ : List Rec := []
  copyQ : List Rec := []
  collQ : List Rec := []
  nextRec : Nat := 0
  nextPush : Nat := 0
  /-- One more than the cycle of the last `qcnt` of a queue (10 R194). -/
  counts : Tab Nat := []
  lease : Lease := {}
  domain : Word := 0
  wdog : Wdog := {}
  /-- HBM of the dies as of the last refresh of the descriptor cache (13 R274). -/
  view : Option (Tab Memory) := none
  /-- Handles whose version `seal` or `unseal` has changed since the last refresh (13 R274). -/
  unseen : List Nat := []
  tlb : List TlbEntry := []
  reservations : List Reservation := []
  launch : Option Nat := none
  /-- Notices written since launch start (14 R280). -/
  noticeSeq : Nat := 0
  /-- Collectives issued at each level (12 R255). -/
  colls : Tab Nat := []
  /-- Collectives completed at each level. -/
  collsDone : Tab Nat := []
deriving DecidableEq, Repr

/-! ## Groups and partitions -/

/-- A flag (10 R204). -/
structure Flag where
  v : BitVec 32 := 0
  tag : Tag := Config.emptyTag
  poison : Bool := false
  /-- One more than the cycle in which it was last written (10 R206). -/
  moved : Nat := 0
deriving DecidableEq, Repr

/-- A group context: four cores, eight threads and the flag file (02 R22). -/
structure Ctx where
  part : Nat
  cores : Tab Core := []
  threads : Tab Thread := []
  flags : Tab Flag := []
deriving DecidableEq, Repr, Inhabited

/-- A group (02 R21, R22). -/
structure Group where
  live : Option Nat := none
  shadow : Option Ctx := none
  flags : Tab Flag := []
  /-- The package core whose record holds the array, and that record, when a cooperative record holds it. -/
  lent : Option (Nat × Nat) := none
deriving DecidableEq, Repr

/-- An event bit (10 R207). -/
structure Ev where
  bit : Bool := false
  tag : Tag := Config.emptyTag
  /-- One more than the cycle in which it was last written (10 R207). -/
  moved : Nat := 0
deriving DecidableEq, Repr

/-- Where a launch stands (11 R211-R216). -/
inductive LaunchStatus where
  | pending
  | chosen (tick : Nat)
  | running
deriving DecidableEq, Repr

/-- A launch taken from the launch table (11 R212). -/
structure Launch where
  id : Nat
  eentry : Word
  aentry : Word
  /-- Package cores placed, rising. -/
  cores : List Nat
  arg : Word
  wait : BitVec 256
  set : BitVec 256
  timeout : Nat
  jobn : Nat
  job : Nat
  hard : Bool
  persist : Bool
  prio : Nat
  status : LaunchStatus := .pending
  /-- Live schedule ticks since the last unit (R230). -/
  ticks : Nat := 0
deriving DecidableEq, Repr

/-- An ingress entry (15 R303). -/
structure Ingress where
  id : Nat
  valid : Bool
  tag : Tag
deriving DecidableEq, Repr

/-- A barrier arrival: level, thread, number (10 R203). -/
structure Arrival where
  level : Nat
  tid : Nat
  n : Nat
deriving DecidableEq, Repr

/-- An exchange at slice end in progress (11 R227). -/
structure Switch where
  /-- Slot at which the slice ended, for the grace. -/
  slot : Nat
  /-- Asked for by `ctxsave`: no exchange follows. -/
  save : Bool := false
deriving DecidableEq, Repr

/-- A context removal in progress: the cycle at which fetch was replaced (14 R288). -/
structure Removal where
  cycle : Nat
deriving DecidableEq, Repr

/-- An event wait of a host: ingress index, bit, the id that asked, and the tag it asked under (21 R338). -/
structure EventWait where
  entry : Nat
  bit : Nat
  id : Nat
  tag : Tag
deriving DecidableEq, Repr

/-- A partition (13 R261-R264; 15 R302, R303, R310) (DESIGN CHOICE, log 6). -/
structure Part where
  gen : BitVec 8 := 0
  low : BitVec 8 := 0
  isOpen : Bool := false
  groups : BitVec 64 := 0
  lbase : Nat := 0
  tdt : Nat := 0
  trapbase : Nat := 0
  framebase : Nat := 0
  savebase : Nat := 0
  bkbase : Nat := 0
  bklim : Nat := 0
  weight : Nat := 0
  repl : Nat := 0
  slots : BitVec 256 := 0
  /-- For each die, base and length of the regions given (R303). -/
  regions : Tab (Nat × Nat) := []
  ingress : List Ingress := []
  sliceLen : BitVec 24 := 0
  /-- Length in force and the tick at which the slice began. -/
  slice : Option (Nat × Nat) := none
  slipLimit : BitVec 16 := 0
  slipCount : BitVec 16 := 0
  latew : BitVec 32 := 0
  migsrc : BitVec 16 := 0xFFFF
  events : Tab Ev := []
  launches : List Launch := []
  nextLaunch : Nat := 0
  arrivals : List Arrival := []
  /-- Job-level barriers that a member left without arriving: job and number (10 R202). -/
  stuckSyncs : List (Nat × Nat) := []
  switching : Option Switch := none
  /-- As the last boundary came, the conditions of R228 for an exchange at SLICE.LEN 0 held. -/
  zeroHeld : Bool := false
  /-- Event bits that were 1, and cores that were not free, as the last boundary came (11 R214, R216). -/
  bitsHeld : BitVec 256 := 0
  busyHeld : BitVec 256 := 0
  /-- The tick whose opening boundary dispatch has already used. -/
  dispatched : Option Nat := none
  /-- A watchdog asked for removal during a gang switch, which finishes first (14 R288). -/
  removeDue : Bool := false
  /-- The generation before the last `dusk`, the checking points that still hold it, and those that will be slow to
  install the next (13 R262, R265); the schedule's. -/
  prev : BitVec 8 := 0
  behind : List Point := []
  slow : List Point := []
  /-- Stopped by `ctxsave` or restored by `ctxrest`: `dawn` resumes (15 R301, R304). -/
  saved : Bool := false
  /-- `dawn` came, or the partition came in from the shadow banks: threads resume at the next boundary. -/
  resume : Bool := false
  /-- One more than the slot in which that happened (11 R227; 15 R301). -/
  resumeFrom : Nat := 0
  removal : Option Removal := none
  objects : List (List Byte) := []
  /-- Open secured sessions: the number of the opening, which gives the key, and messages received (13 R275, R277). -/
  sessions : List (Nat × Nat) := []
  /-- Event waits the service holds (21 R338). -/
  eventWaits : List EventWait := []
  /-- `seal` and `unseal` in the order in which they reached the descriptor table: handle and thread (10 R185). -/
  sealQ : List (Nat × Nat) := []
  /-- Service threads whose instruction acts on the partition, in the order in which they reached it (15 R300). -/
  ctlQ : List Nat := []
deriving DecidableEq, Repr

/-! ## Dies -/

/-- A record of the error log (14 R293). -/
structure ErrRec where
  kind : Nat
  store : Nat
  tag : Tag
  repeats : Nat
  loc : Nat
  tick : Nat
deriving DecidableEq, Repr

/-- The counter block of a stack (21 R342). -/
structure Counters where
  rdreq : Word := 0
  wrreq : Word := 0
  rmw : Word := 0
  stall : Word := 0
  late : Word := 0
  swept : Word := 0
  corr : Word := 0
deriving DecidableEq, Repr

/-- A notice for a service core (15 R306). -/
inductive Notice where
  | trap (core k : Nat)
  | core (core : Nat)
  | sweep (part : Nat)
  | mgmt
deriving DecidableEq, Repr

/-- A request at a memory port that holds a request tag of its lane (21 R340): its size in bytes and the generation tag it
carries (13 R262). -/
structure PortReq where
  stack : Nat
  lane : Nat
  write : Bool
  rmw : Bool
  size : Nat := 64
  tag : Tag := Config.emptyTag
deriving DecidableEq, Repr

/-- A buffered flit: input port, and its age since it came to the head of its buffer (21 R335, 11 R223). -/
structure Buffered where
  port : Nat
  f : Flit
  age : Nat := 0
deriving DecidableEq, Repr

/-- A flit on an on-package link: the router input it enters, the slot in which it does (21 R330), and the slot in which it
entered the package's routers (15 R307). -/
structure Transit where
  die : Nat
  port : Nat
  slot : Nat
  start : Nat := 0
  f : Flit
deriving DecidableEq, Repr

/-- A die. -/
structure Die where
  hbm : Memory := {}
  bank : Memory := {}
  /-- Writes issued or observed, for each die (08 R160). -/
  clock : Tab Nat := []
  /-- Writes of each die applied at their homes, as known here. -/
  known : Tab Nat := []
  tcache : List Block := []
  slotTable : Tab Word := []
  /-- Entries waiting for the boundary: the slot of their `slotld`, first entry and entries, in issue order (15 R307). -/
  slotPending : List (Nat × Nat × List Word) := []
  /-- The table before the last update, and the slot at which that took effect: traffic on a circuit since before completes
  on it (15 R307). -/
  slotOld : Tab Word := []
  slotSince : Nat := 0
  /-- Circuits: slot of start and die of end, 4 where they leave the package (21 R332). -/
  circuits : List (Nat × Nat) := []
  errlog : List ErrRec := []
  counters : Tab Counters := []
  ports : List PortReq := []
  /-- Router input buffers, oldest first. -/
  buffers : List Buffered := []
  /-- Router inputs that have taken a flit, and outputs that have sent one, with the slot in which (21 R329). -/
  inSlot : List (Nat × Nat) := []
  outSlot : List (Nat × Nat) := []
  /-- Ports out of use (14 R294). -/
  deadPorts : List Nat := []
  /-- TARGET and PCFG of the service core (15 R299, R310). -/
  target : Word := 0
  pcfg : Word := 0
  raw : Bool := false
  /-- The cycle of the last `raw enter`, and whether any die had entered before (15 R309). -/
  rawAt : Option (Nat × Bool) := none
  notices : List Notice := []
deriving DecidableEq, Repr

/-! ## The package -/

/-- One byte of a write, with the bits it covers. -/
structure WCell where
  addr : Nat
  val : Byte
  mask : Byte
deriving DecidableEq, Repr

/-- What a write does at its home (08 R155). -/
inductive WrOp where
  | bytes (st : Store) (cells : List WCell)
  | flagSet (group idx : Nat) (v : BitVec 32)
  | flagInc (group idx : Nat) (v : BitVec 32)
  | event (part bit : Nat) (v : Bool)
deriving DecidableEq, Repr

/-- A write that has been issued (08 R157-R160, R169). -/
structure Write where
  seq : Nat
  src : Nat
  home : Nat
  op : WrOp
  tag : Tag
  /-- Issued in raw-access mode (13 R268). -/
  raw : Bool := false
  /-- An element operation of a record (10 R199). -/
  eng : Bool := false
  /-- Which part of its store it is. -/
  piece : Piece := {}
  /-- The `dusk` that ended its tenancy has returned: it is dropped (13 R265, R266). -/
  stale : Bool := false
  /-- Mode `.a` (08 R157). -/
  mca : Bool
  clock : Tab Nat
  exposed : Bool := false
  applied : Bool := false
  lost : Bool := false
  /-- Thread that issued it, and the tensor handle it went through. -/
  tid : Nat
  handle : Nat
  /-- What a loss reports (R169). -/
  trap : Trap
  /-- Schedule tick of the last try, and tries made. -/
  tick : Nat
  tries : Nat := 0
deriving DecidableEq, Repr

/-- Where a frame's atomics run (21 R336). -/
structure PageMode where
  owner : Option Nat := none
  by_ : Nat := 0
  count : Nat := 0
  since : Nat := 0
deriving DecidableEq, Repr

/-- A sweep pass (13 R267): the generation recorded at its start, and the service core that asked for it. -/
structure Sweep where
  part : Nat
  s : BitVec 8
  asked : Option Nat
deriving DecidableEq, Repr

/-- A replica of a sealed page (08 R166, 12 R258). -/
structure Replica where
  part : Nat
  handle : Nat
  die : Nat
  homeDie : Nat
  frame : Nat
  /-- VERSION of the handle when the page was copied (13 R274). -/
  version : Nat
deriving DecidableEq, Repr

/-- What a saved image holds (15 R304): the tag it was saved under, the context, and the launches on its cores. -/
structure Image where
  tag : Tag
  ctx : Ctx
  launches : List Launch
  arrivals : List Arrival
deriving DecidableEq, Repr, Inhabited

/-- A consistent cut (14 R290): dies the marker reached and the cut counts. -/
structure Cut where
  job : Nat
  tid : Nat
  /-- Dies the marker has reached. -/
  reached : List Nat
  /-- Dies whose threads have been asked to stop, and those that have reached step 4. -/
  stopping : List Nat := []
  settled : List Nat := []
  /-- Cut counts by level. -/
  counts : Tab Nat
deriving DecidableEq, Repr

/-- What the package sends out: to host nodes, to the host through the management class, or to another package. -/
inductive OutMsg where
  | data (tenancy : Nat) (bytes : List Byte)
  | ack (tenancy : Nat)
  | error (tenancy : Nat)
  /-- Event waits ended by `dusk` name the ended generation (21 R338). -/
  | ended (tenancy : Nat) (gen : Nat)
  | mgmt (bytes : List Byte)
  | mgmtError
  | ext (pkg : Nat) (addr : Nat) (bytes : List Byte)
  /-- A read of the host window carries its offset (21 R339). -/
  | hostRead (tenancy : Nat) (off n : Nat)
  | hostWrite (tenancy : Nat) (off : Nat) (bytes : List Byte)
  | flit (die port : Nat) (f : Flit)
  | marker (job : Nat)
deriving DecidableEq, Repr

/-- Firmware: awaited from the host, running, or failed (14 R296, 21 R345). -/
inductive Firmware where
  | awaiting | running | failed
deriving DecidableEq, Repr

/-- The next move of the schedule: a thread runs, a step of the machine happens, or time passes (DESIGN CHOICE, log 1). -/
inductive Move where
  | thread (tid : Nat)
  | event (i : Instr)
  | pass (cycles slots : Nat)
  /-- The checking points that will be slow to install the partition's next generation (13 R265 step 4) (DESIGN CHOICE, log 70). -/
  | lag (part : Nat) (pts : List Point)
  /-- A checking point installs the partition's generation and acknowledges (13 R265 step 4). -/
  | install (part : Nat) (pt : Point)
  /-- The supervisor maps a code object executable (13 R275) (DESIGN CHOICE, log 72). -/
  | codeObject (part : Nat) (image : List Byte)
deriving DecidableEq, Repr

/-- The package. -/
structure State where
  /-- The schedule still to come; the model's own. -/
  agenda : List Move := []
  /-- The thread that runs when the agenda is empty, and the one an instruction acts on; the model's own. -/
  cur : Nat := 513
  /-- Free values used so far; the model's own. -/
  fresh : Nat := 0
  /-- Cycles of the arithmetic clock and slots since power-on (02 R23). -/
  cycle : Nat := 0
  slot : Nat := 0
  /-- One more than the place of the last source that acted in this cycle (10 R199); the model's own. -/
  lastSource : Nat := 0
  firmware : Firmware := .awaiting
  fwImage : List Byte := []
  /-- The package's number on the fabric, and whether it has been set (21 R347). -/
  pkgNum : BitVec 16 := 0
  pkgSet : Bool := false
  regulator : Option (BitVec 16) := none
  boots : Nat := 0
  hssSigned : Nat := 0
  rawLocked : Bool := false
  rawEntered : Bool := false
  clockMhz : Nat := 1000
  laneTags : Nat := 8
  parts : Tab Part := []
  groups : Tab Group := []
  cores : Tab Core := []
  threads : Tab Thread := []
  dies : Tab Die := []
  /-- Writes issued and not yet acknowledged, in issue order. -/
  writes : List Write := []
  /-- Writes of each die applied at their homes. -/
  applied : Tab Nat := []
  /-- Stores of several parts of which a dropped part has been counted (13 R263); the model's own. -/
  counted : List Nat := []
  /-- Frames in owner mode or being counted, by die × 2^28 + frame. -/
  pageModes : Tab PageMode := []
  /-- Page-table version of each shard, by partition × 2^21 + handle × 2^8 + shard (13 R272). -/
  ptVersions : Tab Nat := []
  /-- Region owners, by die × 2^20 + region (13 R263). -/
  owners : Tab Nat := []
  sweeps : List Sweep := []
  /-- Atomics on their way whose threads a `dusk` or a removal has discarded, with the number of the thread (13 R266). -/
  lateAmos : List (Nat × AmoReq) := []
  replicas : List Replica := []
  /-- Context images written so far, by the serial number in their header (15 R304). -/
  images : Tab Image := []
  cuts : List Cut := []
  /-- Records issued so far (11 R222). -/
  issues : Nat := 0
  /-- Flits on the on-package links (21 R330). -/
  transit : List Transit := []
  /-- A tenant has been open since power-on (21 R344, R347). -/
  tenantRan : Bool := false
  out : List OutMsg := []
deriving DecidableEq, Repr

/-- Right after reset: power is on, the firmware has not been loaded, every line and unit carries the empty tag, and
partition 0 is open (R261, R264, R345). Every register the spec gives no reset value for is 0 (notes/assumptions) (DESIGN CHOICE, log 6 and 7). -/
def State.reset : State := { parts := [(0, { isOpen := true })] }

/-- Why the machine stops with a fault. -/
inductive Fault where
  /-- Raised by `step` when the schedule names a thread number that no core has. Safe: the package has no such thread. -/
  | noThread
deriving DecidableEq, Repr

/-- Why the model has no answer. -/
inductive Refusal where
  /-- Raised by `exec` for an instruction without a meaning. Safe. -/
  | notModelled (mnemonic : String)
deriving DecidableEq, Repr

end Sys2Proof.Machine
end

