-- ==== Sys2Proof/Machine/Operands.lean ====
section
/-! DEFINITION. Operand fields, the value window, guards, stages and lanes of one thread (04 R47-R51, R55, R56;
05 R75; 11 R226). -/

namespace Sys2Proof.Machine

open Sys2Proof

/-! ## Lanes -/

/-- Lanes of a vector at lane width `w` (R75). -/
def lanesOf (w : Nat) : Nat := 4096 / w

/-- Lane `i` of width `w` (R73, R75). -/
def lane (w : Nat) (x : Vec) (i : Nat) : Nat := (x.extractLsb' (i * w) w).toNat

/-- The vector of these lanes, lane 0 first. -/
def ofLanes (w : Nat) (l : List Nat) : Vec :=
  BitVec.ofNat 4096 (l.foldr (fun x acc => x % 2 ^ w + 2 ^ w * acc) 0)

/-- A vector whose every lane of width `w` is `x`. -/
def splat (w : Nat) (x : Nat) : Vec := ofLanes w (List.replicate (lanesOf w) x)

/-- The bytes of a vector, byte 0 first. -/
def vecBytes (x : Vec) : List Byte := (List.range 512).map fun i => x.extractLsb' (8 * i) 8

/-- A vector from bytes, zero above. -/
def bytesVec (l : List Byte) : Vec := ofLanes 8 (l.map (·.toNat))

/-! ## Window -/

/-- The zero of a value's kind (R55). -/
def Val.zero : Val → Val
  | .s _ | .lostS => .s 0
  | .v _ | .lostV => .v 0

/-- A vector value. -/
def Val.isVec : Val → Bool
  | .v _ | .lostV => true
  | _ => false

/-- Its data is lost (14 R292). -/
def Val.isLost : Val → Bool
  | .lostS | .lostV => true
  | _ => false

/-- The scalar it holds. -/
def Val.word : Val → Word
  | .s w => w
  | _ => 0

/-- The vector it holds, or a scalar broadcast at lane width `w` (R50). -/
def Val.vec (w : Nat) : Val → Vec
  | .v x => x
  | .s x => splat w x.toNat
  | _ => 0

/-- Append values, oldest first (R50): the window keeps 64, and a draining or refilling loop engine records them
(11 R226). -/
def append (t : Thread) (xs : List Val) : Thread :=
  let w := (xs.reverse ++ t.window).take 64
  match t.loop with
  | none => { t with window := w }
  | some l =>
    match l.mode with
    | .normal => { t with window := w }
    | .drain j kept vals => { t with window := w, loop := some { l with mode := .drain j kept (vals ++ xs) } }
    | .refill j vals => { t with window := w, loop := some { l with mode := .refill j (vals.drop xs.length) } }

/-! ## Enabled (R47, R56, R226) -/

/-- What the loop engine says of a stage: run, off, or off with its drained values. -/
inductive StageAct where
  | run | off | drained
deriving DecidableEq, Repr

/-- The stage condition in the current kernel iteration (R56, R226). -/
def stageAct (t : Thread) (stg : Nat) : StageAct :=
  match t.loop with
  | none => .run
  | some l =>
    if l.k < stg then .off
    else
      let n := l.k - stg
      match l.mode with
      | .normal => if n < l.trip then .run else .off
      | .drain j _ _ => if n < j then .run else .off
      | .refill j _ => if n < j then .drained else if n < l.trip then .run else .off

/-- Guard bit `i` lets the lane run (R46, R47). -/
def guardBit (t : Thread) (h : Hdr) (i : Nat) : Bool :=
  if h.grd = 127 then true else (tget t.preds h.grd.toNat 0).getLsbD i != (h.gsn == 1)

/-- The instruction, or lane `i`, is enabled (R47). -/
def enabledAt (t : Thread) (h : Hdr) (i : Nat) : Bool := stageAct t h.stg.toNat == .run && guardBit t h i

/-- An instruction that is not lane-wise uses guard bit 0. -/
abbrev enabled (t : Thread) (h : Hdr) : Bool := enabledAt t h 0

/-- Some lane below `n` is enabled. -/
def enabledAny (t : Thread) (h : Hdr) (n : Nat) : Bool :=
  stageAct t h.stg.toNat == .run && (h.grd == 127 || (List.range n).any fun i => guardBit t h i)

/-- The guard reads a predicate whose data is lost (14 R292). -/
def guardLost (t : Thread) (h : Hdr) : Bool :=
  stageAct t h.stg.toNat == .run && h.grd != 127 && t.lost.contains (.pred h.grd.toNat)

/-- What a disabled instruction appends: zeros of its kinds, or its drained values in a refill (R55, R226). -/
def disabledVals (t : Thread) (h : Hdr) (zeros : List Val) : List Val :=
  match stageAct t h.stg.toNat, t.loop with
  | .drained, some l =>
    (match l.mode with
     | .refill _ vals => if zeros.length ≤ vals.length then vals.take zeros.length else zeros
     | _ => zeros)
  | _, _ => zeros

/-! ## Operands -/

/-- What an instruction requires at an operand (R48, R50): a scalar, a vector (a scalar is broadcast), or either. -/
inductive Need where
  | s | v | e
deriving DecidableEq, Repr

/-- IDX of an operand field (R48). -/
def opIdx (f : OpField) : Nat := (f.extractLsb' 0 6).toNat
/-- KND of an operand field: a slot. -/
def opSlot (f : OpField) : Bool := f.getLsbD 6

/-- The operand a field names, or cause 0x02 or 0x03 (R48, R50). -/
def getOp (t : Thread) (n : Need) (f : OpField) : Except Nat Val :=
  if opSlot f then
    match n with
    | .v => .ok (if t.lost.contains (.vslot (opIdx f)) then .lostV else .v (tget t.vslots (opIdx f) 0))
    | _ => .ok (if t.lost.contains (.sslot (opIdx f)) then .lostS else .s (tget t.sslots (opIdx f) 0))
  else
    match t.window[opIdx f]? with
    | none => .error 3
    | some x => if n = .s ∧ x.isVec then .error 2 else .ok x

/-- All operands; of several causes the lowest code is taken (14 R284) (DEDUCED, log 19). -/
def getOps (t : Thread) : List (Need × OpField) → Except Nat (List Val)
  | [] => .ok []
  | (n, f) :: l =>
    match getOp t n f, getOps t l with
    | .ok x, .ok xs => .ok (x :: xs)
    | .error a, .error b => .error (min a b)
    | .error a, .ok _ => .error a
    | .ok _, .error b => .error b

/-- The run of `n` positions whose newest is at the field's distance, oldest first (R114, R236). -/
def getRun (t : Thread) (f : OpField) (n : Nat) : Except Nat (List Val) :=
  let l := (t.window.drop (opIdx f)).take n
  if l.length < n then .error 3 else .ok l.reverse

/-- NEG and ABS act at infinite precision, ABS first (R49). -/
def modify (f : OpField) (x : Num) : Num :=
  let y := if f.getLsbD 7 then x.abs else x
  if f.getLsbD 8 then y.neg else y

/-- An operand element after its modifiers (R49). An integer zero has no sign. -/
def operandNum (t : Ty) (f : OpField) (x : Nat) : Num :=
  match modify f (numOf t x) with
  | .fin b n d => .fin (b && (t.isFloat || n != 0)) n d
  | y => y

/-- SCL as a signed scale (R57). -/
def sclOf (x : FmtA) : Int := x.scl.toInt

/-- The type a format-A word names. -/
def tyA (x : FmtA) : Ty := (tyOf x.typ).getD .i64
/-- The type code in a field's low seven bits. -/
def tyField (f : OpField) : Ty := (tyOf (f.extractLsb' 0 7)).getD .i64

/-- A scalar result as R76 writes it. -/
def scalarOf (t : Ty) (bits : Nat) : Word :=
  if t = .i32 then BitVec.ofInt 64 (signedOf 32 bits) else BitVec.ofNat 64 (bits % 2 ^ t.width)

/-- A scalar operand of a type: its low bits (R76, R96). -/
def scalarNum (t : Ty) (f : OpField) (w : Word) : Num := operandNum t f (w.toNat % 2 ^ t.width)

/-- The result of an instruction on thread state: a cause to take, or the thread after it. -/
abbrev ThreadStep := Except Trap Thread

/-- An instruction retires under a single step (14 R286). -/
def retireStep (m : StepMode) : StepMode := if m = .armed then .fired else m

/-- The instruction has been done: values appended, flags raised, the next word (R80, R94). -/
def finishThread (t : Thread) (xs : List Val) (fl : Flags) (bytes : Nat := 8) : Thread :=
  let a := append t xs
  { a with status := .running, entered := false, atEntry := false, stepMode := retireStep t.stepMode, fpstat := t.fpstat ||| fl, pc := t.pc + BitVec.ofNat 64 bytes }

/-- A cause reported at the word's own address (14 R283: 0x01-0x05, 0x08). -/
def wordTrap (t : Thread) (cause : Nat) : Trap := { cause, kind := 1, info := t.pc.toNat }

/-- An instruction on thread state alone. Causes 0x02 and 0x03 come first, enabled or not; a disabled instruction
appends zeros of its kinds; lost data that an enabled one reads raises cause 0x19 (R55, R72, R292). `n` is the number
of lanes that take the guard, 1 when it is not lane-wise (DEDUCED, log 20). -/
def onThread (t : Thread) (h : Hdr) (n : Nat) (ops : Except Nat (List Val)) (zeros : List Val)
    (f : List Val → List Val × Flags) : ThreadStep :=
  match ops with
  | .error c => .error (wordTrap t c)
  | .ok vs =>
    if guardLost t h then .error { cause := 0x19 }
    else if !enabledAny t h n then .ok (finishThread t (disabledVals t h zeros) 0)
    else if vs.any (·.isLost) then .error { cause := 0x19 }
    else
      let r := f vs
      .ok (finishThread t r.1 r.2)

/-- The `i`-th of the operands read. -/
def arg (vs : List Val) (i : Nat) : Val := vs.getD i (.s 0)

end Sys2Proof.Machine
end

