-- ==== Sys2Proof/Machine/Ops.lean ====
section
/-! DEFINITION. Operations over the whole state: parts of it by number, tags and storage (13 R261-R268), writes on their
way to their homes (08 R157-R160), errors (14 R293), and taking a cause (14 R279-R285, R296). -/

namespace Sys2Proof.Machine

open Sys2Proof

/-! ## Parts of the state -/

namespace State

def thread (s : State) (tid : Nat) : Thread := tget s.threads tid {}
def setThread (s : State) (tid : Nat) (t : Thread) : State := { s with threads := tput {} s.threads tid t }
def core (s : State) (c : Nat) : Core := tget s.cores c {}
def setCore (s : State) (c : Nat) (x : Core) : State := { s with cores := tput {} s.cores c x }
def group (s : State) (g : Nat) : Group := tget s.groups g {}
def setGroup (s : State) (g : Nat) (x : Group) : State := { s with groups := tput {} s.groups g x }
def part (s : State) (p : Nat) : Part := tget s.parts p {}
def setPart (s : State) (p : Nat) (x : Part) : State := { s with parts := tput {} s.parts p x }
def die (s : State) (d : Nat) : Die := tget s.dies d {}
def setDie (s : State) (d : Nat) (x : Die) : State := { s with dies := tput {} s.dies d x }

/-- The thread an instruction acts on. -/
def th (s : State) : Thread := s.thread s.cur
def setTh (s : State) (t : Thread) : State := s.setThread s.cur t

/-- Schedule ticks since power-on (02 R23: one pass of a 256-entry slot table) (DESIGN CHOICE, log 3). -/
def tick (s : State) : Nat := s.slot / 256
/-- The state stands at a schedule-tick boundary (DESIGN CHOICE, log 3). -/
def boundary (s : State) : Bool := s.slot % 256 == 0

end State

/-- Core of a thread, and whether it is the execute thread. A service core's one thread is numbered as an execute thread. -/
def coreOf (tid : Nat) : Nat := tid / 2
def isExe (tid : Nat) : Bool := tid % 2 == 1
/-- A service core: core 256 + d of die d (DESIGN CHOICE, log 11). -/
def isSvc (core : Nat) : Bool := decide (256 ≤ core)
/-- Die of a core (02 R12) (DESIGN CHOICE, log 11). -/
def dieOf (core : Nat) : Nat := if core < 256 then core / 64 else core - 256
/-- Group of a core (02 R12). -/
def groupOf (core : Nat) : Nat := core / 4
/-- Service thread of a die (DESIGN CHOICE, log 11). -/
def svcThread (d : Nat) : Nat := 2 * (256 + d) + 1

/-- Partition a core runs for: partition 0 on a service core, else the live one of its group (02 R19, R21). -/
def partOf (s : State) (core : Nat) : Nat :=
  if isSvc core then 0 else ((s.group (groupOf core)).live).getD 0

/-- The tag (p, G[p]) (13 R261). -/
def tagOf (s : State) (p : Nat) : Tag := BitVec.ofNat 12 (p * 256 + (s.part p).gen.toNat)
def tagPart (t : Tag) : Nat := t.toNat / 256
def tagGen (t : Tag) : Nat := t.toNat % 256
/-- The copy of G[p] that a checking point holds (R262): one that is behind holds the generation before. -/
def genAt (s : State) (pt : Point) (p : Nat) : BitVec 8 :=
  if (s.part p).behind.contains pt then (s.part p).prev else (s.part p).gen
/-- The tag's generation is its partition's current one, as a checking point holds it (R263). -/
def tagCurrent (s : State) (pt : Point) (t : Tag) : Bool :=
  t != Config.emptyTag && t == BitVec.ofNat 12 (tagPart t * 256 + (genAt s pt (tagPart t)).toNat)
/-- The generation after `g` (R261). -/
def succGen (p : Nat) (g : BitVec 8) : BitVec 8 := if p = 15 ∧ g = 0xFE then 0 else g + 1

/-- Who makes an access: its tag, whether the raw-access mode of its service core sets tags aside (R262, R268), which part
of its store it is, whether its tenancy's `dusk` has returned (R265), and the bitmap bytes its record has written (07 R130). -/
structure Who where
  tag : Tag
  raw : Bool := false
  piece : Piece := {}
  /-- The number of the store it is a part of. -/
  store : Nat := 0
  stale : Bool := false
  keeps : List Nat := []
  /-- An element operation of a record (10 R199). -/
  eng : Bool := false
deriving DecidableEq, Repr

/-- A checking point takes the access as one of the current generation (R263). -/
def Who.current (s : State) (pt : Point) (w : Who) : Bool := !w.stale && tagCurrent s pt w.tag

/-- An access of a thread. -/
def whoOf (s : State) (tid : Nat) : Who :=
  let c := coreOf tid
  { tag := tagOf s (partOf s c), raw := isSvc c && (s.die (dieOf c)).raw }
/-- An access of the device in partition 0 storage. -/
def who0 (s : State) : Who := { tag := tagOf s 0 }

/-! ## Storage -/

/-- The tag unit of a byte (R262; tiles: 07 R126). -/
def tileUnit (o : Nat) : Nat :=
  if o < 0x8000 then o / 512 else if o < 0x8800 then 64 + (o - 0x8000) / 512 else if o < 0x8840 then 68 else 69
def unitOf (st : Store) (a : Nat) : Nat :=
  match st with
  | .tiles _ => a / Config.tileBytes * 70 + tileUnit (a % Config.tileBytes)
  | _ => a / 64
/-- First byte and length of a tag unit. -/
def unitRange (st : Store) (u : Nat) : Nat × Nat :=
  match st with
  | .tiles _ =>
    let b := u / 70 * Config.tileBytes
    let k := u % 70
    if k < 64 then (b + 512 * k, 512) else if k < 68 then (b + 0x8000 + 512 * (k - 64), 512)
    else if k = 68 then (b + 0x8800, 64) else (b + 0x8840, 8)
  | _ => (64 * u, 64)

/-- The checking point of a byte of a storage array (R262): a bank holds 512 KiB of its die's bank memory in a row
(DESIGN CHOICE, log 70). -/
def stPoint : Store → Nat → Point
  | .hbm d, a => .hbm d (a / Config.stackBytes)
  | .bank d, a => .bank d (a / 0x80000)
  | .near c, _ => .near c
  | .tiles c, _ => .tiles c
  | .dev d, _ => .hbm d 0
  | .ext _, _ => .ingress 0 11
  | .host, _ => .hostNode 0

/-- The mode of the frame that holds a byte of a die's HBM (21 R336). -/
def frameMode (s : State) (d a : Nat) : PageMode := tget s.pageModes (d * 2 ^ 28 + a / 4096) {}

/-- An access passes the points on its way to a byte: the array that holds it, or a memory port and its base die (R262, R263);
an owner's buffer checks as the owner's port does (21 R336). -/
def passes (s : State) (w : Who) (st : Store) (a : Nat) : Bool :=
  match st with
  | .hbm d =>
    (match (frameMode s d a).owner with
     | some o => w.current s (.port o)
     | none => w.current s (.port d) && w.current s (stPoint st a))
  | _ => w.current s (stPoint st a)

/-- A storage array of the package. -/
def memOf (s : State) : Store → Memory
  | .hbm d => (s.die d).hbm
  | .bank d => (s.die d).bank
  | .near c => (s.core c).near
  | .tiles c => (s.core c).tiles
  | _ => {}
def setMem (s : State) (st : Store) (m : Memory) : State :=
  match st with
  | .hbm d => s.setDie d { s.die d with hbm := m }
  | .bank d => s.setDie d { s.die d with bank := m }
  | .near c => s.setCore c { s.core c with near := m }
  | .tiles c => s.setCore c { s.core c with tiles := m }
  | _ => s

/-- The byte an address holds (DESIGN CHOICE, log 8). -/
def Memory.byte (m : Memory) (a : Nat) : Byte := tget m.cells a 0
/-- The tag of a unit. -/
def Memory.tag (m : Memory) (u : Nat) : Tag := tget m.tags u Config.emptyTag
/-- Store one byte; 0 is not listed. -/
def Memory.setByte (m : Memory) (a : Nat) (b : Byte) : Memory := { m with cells := tput 0 m.cells a b }
/-- Set the tag of a unit; the empty tag is not listed. -/
def Memory.setTag (m : Memory) (u : Nat) (t : Tag) : Memory := { m with tags := tput Config.emptyTag m.tags u t }
/-- Every byte of [a, a + n) becomes 0. -/
def Memory.zeroRange (m : Memory) (a n : Nat) : Memory :=
  { m with cells := m.cells.filter fun c => decide (c.1 < a) || decide (a + n ≤ c.1) }
/-- A unit becomes poisoned, or is so no more. -/
def Memory.setPoison (m : Memory) (u : Nat) (p : Option Poison) : Memory :=
  { m with poison := match p with | some k => tset m.poison u k | none => terase m.poison u }

/-- A reader sees the data of an element (R263): its tag is current at the checking point and the element's, or it reads
raw (DESIGN CHOICE, log 8). -/
def sees (s : State) (pt : Point) (w : Who) (elt : Tag) : Bool := w.raw || (w.tag == elt && w.current s pt)

/-- The same for an element at a byte of a storage array. -/
def seesAt (s : State) (w : Who) (st : Store) (a : Nat) (elt : Tag) : Bool := w.raw || (w.tag == elt && passes s w st a)

/-- Little-endian value of bytes (00 R6). -/
def leNat (l : List Byte) : Nat := l.foldr (fun b n => b.toNat + 256 * n) 0
/-- `n` little-endian bytes of a value. -/
def leBytes (n x : Nat) : List Byte := (List.range n).map fun i => BitVec.ofNat 8 (x / 256 ^ i)

/-- The units hit, each by its first byte and its tag, become empty: zeros, no tag, no poison (R267; 15 R302). -/
def emptyUnits (st : Store) (hit : Nat → Tag → Bool) (m : Memory) : Memory :=
  (m.tags.filter fun e => hit (unitRange st e.1).1 e.2).foldl (fun m e =>
    let r := unitRange st e.1
    ((m.zeroRange r.1 r.2).setTag e.1 Config.emptyTag).setPoison e.1 none) m

/-! ## What a die's device shows the supervisor (14 R293, R295; 21 R342) -/

/-- An error record of 32 bytes (14 R293). -/
def errBytes (e : ErrRec) : List Byte :=
  leBytes 1 e.kind ++ leBytes 1 e.store ++ leBytes 2 e.tag.toNat ++ leBytes 4 e.repeats ++ leBytes 8 e.loc ++ leBytes 8 e.tick
    ++ List.replicate 8 0

/-- A counter block (21 R342). -/
def counterBytes (c : Counters) : List Byte :=
  [c.rdreq, c.wrreq, c.rmw, c.stall, c.late, c.swept, c.corr, 0].flatMap fun w => leBytes 8 w.toNat

/-- The 8 bytes of a die's health report: what its monitors measure is free, within the values its fields have (14 R295)
(DESIGN CHOICE, log 67). -/
def healthReport (s : State) (d : Nat) : List Byte :=
  let m := fun i => Config.health d s.cycle i
  let worst := m 1 % 3 + 1
  leBytes 2 (min (m 0) 0xFFFF) ++ leBytes 1 worst ++ leBytes 1 (if worst = 3 then m 2 % 64 else 0xFF)
    ++ leBytes 1 (m 3) ++ leBytes 1 (m 4) ++ leBytes 1 (m 5) ++ [0]

/-- Where the three lie among a die's addresses, beyond its stacks: the log, then the counter blocks at 64 bytes a stack,
then the health report (DESIGN CHOICE, log 73). -/
def logBase : Nat := 0xF000000000
def counterBase : Nat := 0xF100000000
def healthBase : Nat := 0xF200000000

/-- A byte of them. -/
def reportByte (s : State) (d a : Nat) : Byte :=
  if a < counterBase then
    (match (s.die d).errlog[(a - logBase) / 32]? with
     | some e => (errBytes e).getD ((a - logBase) % 32) 0
     | none => 0)
  else if a < healthBase then
    (if 64 * 3 ≤ a - counterBase then 0
     else (counterBytes (tget (s.die d).counters ((a - counterBase) / 64) {})).getD ((a - counterBase) % 64) 0)
  else (healthReport s d).getD (a - healthBase) 0

/-- One byte as the reader sees it (R263). Bytes 0x8848-0x887F of a tile read zero (07 R126). -/
def readByte (s : State) (w : Who) (st : Store) (a : Nat) : Byte :=
  match st with
  | .dev d => reportByte s d a
  | _ =>
    let m := memOf s st
    if seesAt s w st a (m.tag (unitOf st a)) then m.byte a else 0

/-- `n` bytes from `a`. -/
def readBytes (s : State) (w : Who) (st : Store) (a n : Nat) : List Byte :=
  (List.range n).map fun i => readByte s w st (a + i)

/-- The poison a reader of [a, a + n) meets (14 R291, R292). -/
def poisonIn (s : State) (w : Who) (st : Store) (a n : Nat) : Option Poison :=
  let m := memOf s st
  (m.poison.find? fun c =>
    decide (unitOf st a ≤ c.1) && decide (c.1 ≤ unitOf st (a + (n - 1)))
      && seesAt s w st (unitRange st c.1).1 (m.tag c.1)).map (·.2)

/-- The cause of a poison: 0x19, or 0x18 for source loss (10 R180). -/
def poisonCause : Poison → Nat
  | .data => 0x19
  | .source => 0x18

/-- Little-endian number of `n` bytes. -/
def readNat (s : State) (w : Who) (st : Store) (a n : Nat) : Nat := leNat (readBytes s w st a n)

/-- A partition owns an element (R263). -/
def owns (s : State) (p : Nat) (st : Store) (a : Nat) : Bool :=
  match st with
  | .hbm d => tget s.owners (d * 2 ^ 20 + a / 0x200000) 0 == p
  | .bank _ =>
    if p = 0 then !((List.range 16).any fun q =>
      q != 0 && decide ((s.part q).bkbase ≤ a) && decide (a < (s.part q).bklim))
    else decide ((s.part p).bkbase ≤ a) && decide (a < (s.part p).bklim)
  | .near c | .tiles c =>
    if isSvc c then p == 0
    else
      match (s.group (groupOf c)).live with
      | some q => p == q
      | none => p == 0 && (s.group (groupOf c)).shadow == none
  | _ => true

/-! ## Errors and counts -/

/-- Append to a die's error log, with `repeats` more errors merged into the record (14 R293). -/
def logErrs (s : State) (d kind store : Nat) (tag : Tag) (loc repeats : Nat) : State :=
  s.setDie d { s.die d with
    errlog := (s.die d).errlog ++ [{ kind, store, tag, repeats, loc, tick := s.tick }] }
/-- One error. -/
abbrev logErr (s : State) (d kind store : Nat) (tag : Tag) (loc : Nat) : State := logErrs s d kind store tag loc 0

/-- The checking points of R262, as the Store byte of an error record names them: the spec numbers none, so the model counts the
rows of R262's table from 0 (DESIGN CHOICE, log 96). -/
def storeCode : Store → Nat
  | .hbm _ => 0
  | .tiles _ => 2
  | .near _ => 3
  | .bank _ => 4
  | .dev _ => 0
  | .ext _ => 10
  | .host => 10

/-- Die that holds a storage array. -/
def storeDie : Store → Nat
  | .hbm d | .bank d | .dev d => d
  | .near c | .tiles c => dieOf c
  | _ => 0

/-- LATEW of a partition counts a dropped write, saturating (R263, 15 R310). -/
def countLate (s : State) (p : Nat) : State :=
  let q := s.part p
  s.setPart p { q with latew := if q.latew = 0xFFFFFFFF then q.latew else q.latew + 1 }

/-- A counter of the stack that holds a frame address (21 R342). -/
def countStack (s : State) (d a : Nat) (f : Counters → Counters) : State :=
  let x := s.die d
  let k := a / Config.stackBytes
  s.setDie d { x with counters := tput {} x.counters k (f (tget x.counters k {})) }

/-! ## Writing storage (R263) -/

/-- The bytes of one unit after a write: zero-filled first if its tag is another, whose poison goes with its data; poison goes
too when the write, or the last part of a store, covers the whole unit (14 R292). A raw write leaves the tag (R268). -/
def writeUnit (w : Who) (st : Store) (m : Memory) (u : Nat) (cells : List WCell) : Memory :=
  let r := unitRange st u
  let fill := !w.raw && m.tag u != w.tag
  let m1 := if fill then (m.zeroRange r.1 r.2).setTag u w.tag else m
  let m2 := cells.foldl (fun m c => m.setByte c.addr ((m.byte c.addr &&& ~~~c.mask) ||| (c.val &&& c.mask))) m1
  let whole := (w.piece.line && w.piece.last) ||
    (List.range r.2).all fun i => cells.any fun c => c.addr == r.1 + i && c.mask == 0xFF
  if fill || whole then m2.setPoison u none else m2

/-- The bits a tile descriptor keeps: the others are reserved and read 0 (07 R127). -/
def tileDescMask : Word := 0x07FF017F#64

/-- A byte of a tile with the reserved bits of its descriptor cleared (07 R127; 00 R7). -/
def descCell (c : WCell) : WCell :=
  let o := c.addr % Config.tileBytes
  if o < 0x8840 then c else { c with val := c.val &&& tileDescMask.extractLsb' (8 * (o - 0x8840)) 8 }

/-- The cells that reach storage: a tile's reserved bytes and bits ignore writes (07 R126, R127). -/
def realCells (st : Store) (cells : List WCell) : List WCell :=
  match st with
  | .tiles _ => (cells.filter fun c => decide (c.addr % Config.tileBytes < 0x8848)).map descCell
  | _ => cells

/-- A write to tile data clears the bitmap words of the rows it touches, but for the bytes its record has written (07 R130). -/
def bitmapClears (st : Store) (keeps : List Nat) (cells : List WCell) : List WCell :=
  match st with
  | .tiles _ =>
    let gs := ((cells.filter fun c => decide (c.addr % Config.tileBytes < 0x8000)).map fun c =>
      (c.addr / Config.tileBytes) * Config.tileBytes + 0x8800 + 8 * (c.addr % Config.tileBytes / 4096)).eraseDups
    (gs.flatMap fun g => (List.range 8).map fun i => ({ addr := g + i, val := 0, mask := 0xFF } : WCell)).filter fun c =>
      !keeps.contains c.addr
  | _ => []

/-- The units some cells lie in, in the order met. -/
def unitsOf (st : Store) (cells : List WCell) : List Nat := (cells.map fun c => unitOf st c.addr).eraseDups

/-- A request of a die's memory port for the lines of [a, a + n), which do not cross a 2 KiB boundary (21 R340). -/
def pushPort (s : State) (d a n : Nat) (tag : Tag) (write rmw : Bool) : State :=
  s.setDie d { s.die d with
    ports := (s.die d).ports ++ [{ stack := a / Config.stackBytes, lane := a / 2 ^ 11 % 64, write, rmw,
                                   size := 64 * ((a + n - 1) / 64 + 1 - a / 64), tag }] }

/-- An access asks for them if the memory port takes its tag (13 R262, R263); the lines of a page in owner mode are the owner's
(21 R336). -/
def addPort (s : State) (w : Who) (d a n : Nat) (write rmw : Bool) : State :=
  if (frameMode s d a).owner.isSome || !(w.raw || w.current s (.port d)) then s else pushPort s d a n w.tag write rmw

/-- A read of [a, a + n) of HBM asks its base die. -/
def readPort (s : State) (w : Who) (st : Store) (a n : Nat) : State :=
  match st with
  | .hbm d => addPort s w d a n false false
  | _ => s

/-- The last part of a store in a line asks its base die to write it, as a read-modify-write unless the store covers the
line (21 R341). -/
def writePort (s : State) (w : Who) (st : Store) (u : Nat) (cells : List WCell) : State :=
  match st with
  | .hbm d =>
    if w.piece.last then
      addPort s w d (64 * u) 64 true
        !(w.piece.line || (List.range 64).all fun i => cells.any fun c => c.addr == 64 * u + i && c.mask == 0xFF)
    else s
  | _ => s

/-- What an error record names of a byte: its frame address, its bank address, or its core's number and the byte in the core's
near store or tiles (14 R293) (DESIGN CHOICE, log 86). -/
def errLoc (st : Store) (a : Nat) : Nat :=
  match st with
  | .near c | .tiles c => c * 2 ^ 32 + a
  | _ => a

/-- Errors of a write to units its partition does not own (R263): one record for each unit, at the last part of the store
in it. -/
def logUnowned (s : State) (w : Who) (st : Store) (us : List Nat) : State :=
  if w.piece.last then
    us.foldl (fun s u => logErr s (storeDie st) 5 (storeCode st) (w.tag &&& 0xF00) (errLoc st (unitRange st u).1)) s
  else s

/-- A dropped write of an ended generation: LATEW counts it, and so does its stack (R263; 21 R342). -/
def lateWrite (s : State) (t : Tag) (st : Store) (u : Nat) : State :=
  match st with
  | .hbm d => countStack (countLate s (tagPart t)) d (u * 64) fun c => { c with late := c.late + 1 }
  | _ => countLate s (tagPart t)

/-- A store of several parts counts once, with the first of them that is dropped, at that one's stack (R263; 21 R342)
(DESIGN CHOICE, log 87). -/
def dropLate (s : State) (w : Who) (st : Store) (u : Nat) : State :=
  if w.piece.nth = 0 ∧ w.piece.ends = true then lateWrite s w.tag st u
  else
    let s1 := { s with counted := s.counted.filter (· != w.store) ++ (if w.piece.ends then [] else [w.store]) }
    if s.counted.contains w.store then s1 else lateWrite s1 w.tag st u

/-- Write cells at their home under the rules of R263. Ownership is tested first; a write to an element its partition
does not own is dropped and logged, a write under an old generation is dropped and LATEW counts it once. -/
def storeCells (s : State) (w : Who) (st : Store) (cells : List WCell) : State :=
  let p := tagPart w.tag
  let cs := realCells st cells
  let us := unitsOf st cs
  let bad := us.filter fun u => !w.raw && !owns s p st (unitRange st u).1
  let good := us.filter fun u => w.raw || owns s p st (unitRange st u).1
  let s1 := logUnowned s w st bad
  if good.isEmpty then s1
  else if !w.raw && !passes s w st (unitRange st (good.headD 0)).1 then dropLate s1 w st (good.headD 0)
  else
    let m := good.foldl (fun m u => writeUnit w st m u (cs.filter fun c => unitOf st c.addr == u)) (memOf s1 st)
    let bc := bitmapClears st w.keeps (cs.filter fun c => good.contains (unitOf st c.addr))
    let s2 := good.foldl (fun s u => writePort s w st u cs) s1
    setMem s2 st ((unitsOf st bc).foldl (fun m u => writeUnit { w with piece := {} } st m u (bc.filter fun c => unitOf st c.addr == u)) m)

/-- Whole bytes from an address. -/
def cellsOf (a : Nat) (l : List Byte) : List WCell :=
  l.zipIdx.map fun x => { addr := a + x.2, val := x.1, mask := 0xFF }

/-- The device writes in partition 0 storage at a flat address (see `flat0`) (DESIGN CHOICE, log 10). -/
def flat0 (a : Nat) : Option (Nat × Nat) :=
  if a < 2 ^ 42 ∧ a % 2 ^ 40 < Config.hbmBytes then some (a / 2 ^ 40, a % 2 ^ 40) else none
/-! ## Flags and events (10 R204-R207) -/

/-- Where a group's flag file of a partition is: live, in the shadow bank, or nowhere (R205). -/
inductive FlagFile where
  | live | shadow | none
deriving DecidableEq, Repr

def flagFile (s : State) (p g : Nat) : FlagFile :=
  if (s.group g).live = some p then .live
  else match (s.group g).shadow with
    | some c => if c.part = p then .shadow else .none
    | none => .none

/-- A flag of a partition's file in a group. -/
def flagAt (s : State) (p g i : Nat) : Flag :=
  match flagFile s p g with
  | .live => tget (s.group g).flags i {}
  | .shadow => (match (s.group g).shadow with | some c => tget c.flags i {} | none => {})
  | .none => {}

/-- The flag's value as a reader sees it (R263). -/
def flagValue (s : State) (w : Who) (g i : Nat) : BitVec 32 :=
  let f := flagAt s (tagPart w.tag) g i
  if sees s (.flags g) w f.tag then f.v else 0

/-- Write a flag; the whole unit is covered, so its poison goes. -/
def putFlag (s : State) (p g i : Nat) (f : Flag) : State :=
  let x := s.group g
  match flagFile s p g with
  | .live => s.setGroup g { x with flags := tput {} x.flags i f }
  | .shadow => s.setGroup g { x with shadow := x.shadow.map fun c => { c with flags := tput {} c.flags i f } }
  | .none => s

/-- A flag write at its home under R263: a set covers the whole unit, so its poison goes; an increment uses the old value,
so a poisoned flag stays poisoned (14 R292). A raw write leaves the tag (R268). -/
def writeFlag (s : State) (w : Who) (g i : Nat) (inc : Bool) (v : BitVec 32) : State :=
  let p := tagPart w.tag
  let f := flagAt s p g i
  if flagFile s p g = .none then logErr s (g / 16) 5 7 (w.tag &&& 0xF00) (g * 256 + i)
  else if !w.raw && !w.current s (.flags g) then countLate s p
  else putFlag s p g i { v := if inc then flagValue s w g i + v else v, tag := if w.raw then f.tag else w.tag,
                         poison := inc && f.poison && sees s (.flags g) w f.tag, moved := s.cycle + 1 }

/-- Event bit as the device sees it. -/
def eventBit (s : State) (p i : Nat) : Bool :=
  let e := tget (s.part p).events i {}
  e.bit && e.tag == tagOf s p

/-- Event bit as a reader sees it (R263, R268). -/
def eventSeen (s : State) (w : Who) (p i : Nat) : Bool :=
  let e := tget (s.part p).events i {}
  e.bit && sees s .events w e.tag

/-- An event write at its home under R263. A raw write leaves the tag (R268). -/
def writeEvent (s : State) (w : Who) (p i : Nat) (b : Bool) : State :=
  if !w.raw && !w.current s .events then countLate s p
  else
    let old := tget (s.part p).events i {}
    s.setPart p { s.part p with events := tput {} (s.part p).events i { bit := b, tag := if w.raw then old.tag else w.tag, moved := s.cycle + 1 } }

/-! ## Writes and their homes (08 R154-R160, R169) -/

/-- The home of a place (02 R16, 21 R336). Die 4 stands for another package or a host node. -/
def homeOf (s : State) : Store → Nat → Nat
  | .hbm d, a => (frameMode s d a).owner.getD d
  | .ext _, _ | .host, _ => 4
  | st, _ => storeDie st

/-- Home of what a write does. -/
def opHome (s : State) : WrOp → Nat
  | .bytes st cells => homeOf s st ((cells.head?.map (·.addr)).getD 0)
  | .flagSet g _ _ | .flagInc g _ _ => g / 16
  | .event _ _ _ => 0

/-- The number of the store that a part of it belongs to (R263); the model's own. -/
def storeNo (src seq : Nat) (p : Piece) : Nat := 1 + src + 4 * (seq - p.nth)

/-- The fabric tenancy of a partition's first valid ingress entry (21 R339). -/
def hostTenancy (s : State) (p : Nat) : Option Nat := ((s.part p).ingress.find? (·.valid)).map (·.id)

/-- A write reaches the host window: the offset and the data go to the host node, unless the tenancy has ended. -/
def hostOut (s : State) (w : Who) (off : Nat) (bytes : List Byte) : State :=
  match hostTenancy s (tagPart w.tag) with
  | some t => if w.current s (.hostNode t) then { s with out := s.out ++ [.hostWrite t off bytes] } else countLate s (tagPart w.tag)
  | none => s

/-- Perform a write at its home. -/
def performOp (s : State) (w : Who) : WrOp → State
  | .bytes st cells =>
    (match st with
     | .ext p => { s with out := s.out ++ [.ext p ((cells.head?.map (·.addr)).getD 0) (cells.map (·.val))] }
     | .host => hostOut s w ((cells.head?.map (·.addr)).getD 0) (cells.map (·.val))
     | _ => storeCells s w st cells)
  | .flagSet g i v => writeFlag s w g i false v
  | .flagInc g i v => writeFlag s w g i true v
  | .event p i b => writeEvent s w p i b

/-- Pointwise maximum of two clocks. -/
def clockMax (a b : Tab Nat) : Tab Nat :=
  (List.range 5).foldl (fun c j => tput 0 c j (max (tget a j 0) (tget b j 0))) []

/-- The counts a home knows to be applied: the last exchange, and what it applied itself (R160). -/
def knownAt (s : State) (home : Nat) : Tab Nat := (s.die home).known

/-- A write may be applied at its home: every write its clock counts has been applied (R160). Outside the package only
the writes of its own die come first (R168) (DESIGN CHOICE, log 14). -/
def clockMet (s : State) (home src seq : Nat) (clock : Tab Nat) : Bool :=
  tget s.applied src 0 + 1 == seq &&
    (decide (4 ≤ home) || (List.range 4).all fun j => j == src || decide (tget clock j 0 ≤ tget (knownAt s home) j 0))

/-- One more write of `src` has been applied, and its home knows it. -/
def noteApplied (s : State) (src home : Nat) : State :=
  let n := tget s.applied src 0 + 1
  let s1 := { s with applied := tput 0 s.applied src n }
  if home < 4 then
    s1.setDie home { s1.die home with known := tput 0 (s1.die home).known src (max n (tget (s1.die home).known src 0)) }
  else s1

/-- The next sequence number of a die's writes, counted in its clock (R160). -/
def nextSeq (s : State) (src : Nat) : Nat := tget (s.die src).clock src 0 + 1
def countIssue (s : State) (src : Nat) : State :=
  s.setDie src { s.die src with clock := tput 0 (s.die src).clock src (nextSeq s src) }

/-! ## The order of sources within a cycle (10 R199) -/

/-- Place of a source among those of one cycle: by die, then by core with the service core last, a record after its core's
instruction. -/
def sourceRank (core : Nat) (record : Bool) : Nat :=
  2 * (65 * dieOf core + (if isSvc core then 64 else core % 64)) + (if record then 1 else 0)

/-- Place of a packet, after every source of the package: by the input of the home die's router at which it arrives, then by its
fabric tenancy id. -/
def packetRank (input tenancy : Nat) : Nat := 520 + 2 ^ 16 * input + tenancy

/-! ## Atomics modes of frames (21 R336) -/

/-- What a home knew, the next home of a page knows (DESIGN CHOICE, log 18). -/
def passKnown (s : State) (from_ to_ : Nat) : State :=
  s.setDie to_ { s.die to_ with known := clockMax (s.die to_).known (knownAt s from_) }

/-- The 64 lines of a frame are read from, or written back to, its home's base die, in two requests under the tag of the
partition that owns it (21 R340) (DESIGN CHOICE, log 18). -/
def moveLines (s : State) (h k : Nat) (write : Bool) : State :=
  let a := k % 2 ^ 28 * 4096
  let t := tagOf s (tget s.owners (h * 2 ^ 20 + a / 0x200000) 0)
  pushPort (pushPort s h a 2048 t write false) h (a + 2048) 2048 t write false

/-- A page in owner mode at die `o` returns to its home `h`, in home mode from now with no atomics counted (21 R336). -/
def pageBack (s : State) (o h k : Nat) : State :=
  moveLines (passKnown { s with pageModes := tput {} s.pageModes k { since := s.tick } } o h) h k true

/-- An access of a die to a frame in owner mode returns it to home mode, if the die is not the owner and the frame has been
there for 64 ticks (DESIGN CHOICE, log 18). -/
def returnFrame (s : State) (d h k : Nat) (m : PageMode) : State :=
  match m.owner with
  | some o => if d ≠ o ∧ m.since + 64 ≤ s.tick then pageBack s o h k else s
  | none => s

/-- Pages a die's atomic buffer holds. -/
def ownedPages (s : State) (d : Nat) : Nat := (s.pageModes.filter fun e => e.2.owner == some d).length

/-- A frame of home `h` whose count has reached 64 moves to the counted die: it has been in home mode for 64 ticks, and that die's
buffer has room (21 R336). -/
def pageMoves (s : State) (h : Nat) (m : PageMode) : Bool :=
  m.owner.isNone && decide (64 ≤ m.count) && m.by_ != h && decide (m.since + 64 ≤ s.tick) && decide (ownedPages s m.by_ < 16)

/-- The page's 64 lines are read from its home into the atomic buffer of the counted die, if it moves (21 R336) (DESIGN CHOICE, log
18). -/
def migratePage (s : State) (h k : Nat) : State :=
  let m := tget s.pageModes k {}
  if h < 4 ∧ pageMoves s h m = true then
    passKnown { moveLines s h k false with
      pageModes := tput {} s.pageModes k { owner := some m.by_, by_ := m.by_, count := 0, since := s.tick } } h m.by_
  else s

/-- The frame of a place moves with the atomic that has made its count 64: a later access of the cycle follows it (21 R336). -/
def migrateAfter (s : State) (pl : Place) : State :=
  match pl.store with
  | .hbm h => migratePage s h (h * 2 ^ 28 + pl.addr / 4096)
  | _ => s

/-- The atomics mode of the frame after an atomic by a die (21 R336) (DESIGN CHOICE, log 18). -/
def countAtomic (s : State) (d : Nat) (pl : Place) : State :=
  match pl.store with
  | .hbm h =>
    let k := h * 2 ^ 28 + pl.addr / 4096
    let m := tget s.pageModes k {}
    if m.owner.isSome then returnFrame s d h k m
    else
      let m' : PageMode :=
        if d == h then { m with count := 0 }
        else if m.by_ = d then { m with count := m.count + 1 } else { m with by_ := d, count := 1 }
      { s with pageModes := tput {} s.pageModes k m' }
  | _ => s

/-- Any other access as it reaches the frame: one to a frame in home mode from another die than the counting one resets its
count; one in owner mode may return it (21 R336) (DESIGN CHOICE, log 18). -/
def touchFrame (s : State) (d : Nat) (pl : Place) : State :=
  match pl.store with
  | .hbm h =>
    let k := h * 2 ^ 28 + pl.addr / 4096
    let m := tget s.pageModes k {}
    if m.owner.isSome then returnFrame s d h k m
    else if m.count != 0 && m.by_ != d then { s with pageModes := tput {} s.pageModes k { m with count := 0 } }
    else s
  | _ => s

/-- The device writes bytes in partition 0 storage, in the frames of their first and last as an access of die 0 does (DESIGN CHOICE,
log 65). -/
def devWrite (s : State) (a : Nat) (l : List Byte) : State :=
  match flat0 a with
  | some (d, x) =>
    let s1 := touchFrame s 0 { store := .hbm d, addr := x }
    storeCells (touchFrame s1 0 { store := .hbm d, addr := x + (l.length - 1) }) (who0 s1) (.hbm d) (cellsOf x l)
  | none => s

/-- A write of a die reaches the frame it writes. -/
def touchOp (s : State) (src : Nat) : WrOp → State
  | .bytes st cells => touchFrame s src { store := st, addr := (cells.head?.map (·.addr)).getD 0 }
  | _ => s

/-- A write of a die is applied at its home, which knows it. -/
def applyAtHome (s : State) (w : Who) (src : Nat) (op : WrOp) : State :=
  let s1 := touchOp s src op
  noteApplied (performOp s1 w op) src (opHome s1 op)

/-- Issue a write of a thread (R157): one homed on the writer's die is applied at once if its clock allows; any other
goes on its way (DESIGN CHOICE, log 14). -/
def issueWrite (s : State) (w : Who) (tid : Nat) (op : WrOp) (mca : Bool) (handle : Nat) (trap : Trap) : State :=
  let src := dieOf (coreOf tid)
  let seq := nextSeq s src
  let home := opHome s op
  let s1 := countIssue s src
  let clock := (s1.die src).clock
  if home = src ∧ clockMet s1 home src seq clock then applyAtHome s1 { w with store := storeNo src seq w.piece } src op
  else { s1 with writes := s1.writes ++ [{ seq, src, home, op, tag := w.tag, raw := w.raw, eng := w.eng, piece := w.piece, mca, clock, tid, handle,
                                           trap := { trap with cause := 0x1A }, tick := s.tick }] }

/-- The die observes what its home has applied (R160: a read raises the clock). -/
def observe (s : State) (d home : Nat) : State :=
  if home < 4 ∧ home ≠ d then
    s.setDie d { s.die d with clock := clockMax (s.die d).clock (knownAt s home) }
  else s

/-- A write covers these bits of a byte. -/
def Write.covers (w : Write) (st : Store) (a : Nat) (m : Byte) : Bool :=
  match w.op with
  | .bytes st' cells => st' == st && cells.any fun c => c.addr == a && c.mask &&& m == m
  | _ => false
/-- A write touches these bits of one of `n` bytes. -/
def Write.touches (w : Write) (st : Store) (a n : Nat) (m : Byte) : Bool :=
  match w.op with
  | .bytes st' cells => st' == st && cells.any fun c => decide (a ≤ c.addr) && decide (c.addr < a + n) && c.mask &&& m != 0
  | _ => false
/-- The bits of its byte that a 4-bit location takes; every bit of any other's (R155). -/
def nibMask : Option Bool → Byte
  | none => 0xFF
  | some true => 0xF0
  | some false => 0x0F

/-- Writes of a die not yet applied. -/
def unapplied (s : State) (d : Nat) : List Write := s.writes.filter fun w => w.src == d && !w.applied && !w.lost

/-- How a die reads [a, a + n) of a location (R157, R158). -/
inductive ReadPath where
  /-- From the home. -/
  | home
  /-- From this exposed write of the die. -/
  | early (w : Write)
  /-- It waits for these writes. -/
  | wait (seqs : List Nat)
deriving DecidableEq, Repr

/-- The newest write of a list. -/
def newestOf (l : List Write) : Option Write := l.getLast?

/-- The bits `m` of `n` bytes, as a thread's die reads them. -/
def readPath (s : State) (tid : Nat) (st : Store) (a n : Nat) (m : Byte) : ReadPath :=
  let ws := (unapplied s (dieOf (coreOf tid))).filter fun w => !w.stale && w.touches st a n m
  let own := ws.filter fun w => !w.exposed && w.tid == tid
  if !own.isEmpty then .wait (own.map (·.seq))
  else
    let ex := ws.filter (·.exposed)
    match newestOf ex with
    | none => .home
    | some w =>
      if (List.range n).all fun i => w.covers st (a + i) m then .early w else .wait (ex.map (·.seq))

/-- The byte an exposed write holds. -/
def Write.byteAt (w : Write) (a : Nat) : Byte :=
  match w.op with
  | .bytes _ cells => ((cells.find? fun c => c.addr == a).map (·.val)).getD 0
  | _ => 0

/-- Groups a partition owns. -/
def ownedGroups (s : State) (p : Nat) : List Nat := (List.range 64).filter fun g => (s.part p).groups.getLsbD g

/-- Bytes of a tenant's frame area: 64 frames of 33,280 bytes for each of its threads (12 R232, 15 R303). -/
def frameArea (s : State) (p : Nat) : Nat := 64 * 33280 * 8 * (ownedGroups s p).length
/-- A frame address lies in some tenant's frame area, which only raw reads see; its layout is not documented (DESIGN CHOICE, log 69). -/
def inFrames (s : State) (d a : Nat) : Bool :=
  (List.range 16).any fun p => p != 0 && decide ((s.part p).framebase ≤ d * 2 ^ 40 + a)
    && decide (d * 2 ^ 40 + a < (s.part p).framebase + frameArea s p)

/-- Where a read gets free bytes: another package, a host node, or a raw read of a frame area (DESIGN CHOICE, log 68 and 69). -/
def freeSource (s : State) (w : Who) (st : Store) (a : Nat) : Option (Nat → Byte) :=
  match st with
  | .ext _ => some Config.extByte
  | .host => some Config.hostByte
  | .hbm d => if w.raw && inFrames s d a then some Config.frameByte else none
  | _ => none

/-- `n` bytes a die's reader gets along a path; those the package does not hold are free values. -/
def readAlong (s : State) (w : Who) (path : ReadPath) (st : Store) (a n : Nat) : List Byte :=
  match path with
  | .early x => if seesAt s w st a x.tag then (List.range n).map fun i => x.byteAt (a + i) else List.replicate n 0
  | _ =>
    match freeSource s w st a with
    | some f => (List.range n).map fun i => f (s.fresh + i)
    | none => readBytes s w st a n

/-- Free values read are used up; a read of the host window carries its offset to the host node (21 R339) (DESIGN CHOICE, log 2). -/
def useFresh (s : State) (w : Who) (st : Store) (a n : Nat) : State :=
  match freeSource s w st a with
  | none => s
  | some _ =>
    match st, hostTenancy s (tagPart w.tag) with
    | .host, some t => { s with fresh := s.fresh + n, out := s.out ++ [.hostRead t a n] }
    | _, _ => { s with fresh := s.fresh + n }

/-- Every write that an order at this scope covers is visible to its agents (08 R162, R168, R170). Scope 0 is the thread
itself; within a die an exposed write is visible; from `.di` on it must be applied; at `.sy` it must be acknowledged. -/
def orderMet (s : State) (d scope : Nat) (clock : Tab Nat) : Bool :=
  if scope = 0 then true
  else if scope < 3 then
    (unapplied s d).all fun w => w.exposed || decide (tget clock d 0 < w.seq)
  else
    ((List.range 4).all fun j => decide (tget clock j 0 ≤ tget s.applied j 0)) &&
      (scope != 5 || s.writes.all fun w => w.src != d || decide (tget clock d 0 < w.seq) || w.lost)

/-! ## Reports (14 R281, R282; 15 R310) -/

/-- LOOPST (15 R310). -/
def loopst (t : Thread) : Word :=
  match t.loop with
  | none => 0
  | some l =>
    let drain := match l.mode with
      | .refill _ _ => true
      | _ => false
    BitVec.ofNat 64 (l.trip % 2 ^ 32 * 2 ^ 32 + (l.stages - 1) % 8 * 2 ^ 29 + (if drain then 2 ^ 28 else 0) + l.k % 2 ^ 28)

/-- QUEUES of a trap record (R281) (DEDUCED, log 28). -/
def queuesWord (c : Core) : Word :=
  let held := (c.matQ ++ c.copyQ ++ c.collQ).any fun r => r.status == .held
  BitVec.ofNat 64 (c.matQ.length % 32 + 2 ^ 8 * (c.copyQ.length % 64) + 2 ^ 16 * (c.collQ.length % 16)
    + (if held then 2 ^ 32 else 0))

/-- TRAPINFO of a cause (R282). -/
def trapinfoOf (t : Trap) : Word :=
  BitVec.ofNat 64 (t.info % 2 ^ 48 * 2 ^ 16 + t.reason % 256 * 2 ^ 8 + t.kind % 4 * 2 ^ 6 + t.cause % 64)

/-- Address of a trap record in partition 0 storage (R280). -/
def trapAddr (s : State) (core k : Nat) : Nat := (s.part (partOf s core)).trapbase + core * 384 + k * 128

/-- The bytes of a trap record (R281), CONTROL apart: [0x00, 0x58). Causes 0x20 and 0x39 have no access: ADDR holds the address of
the record's issue, as TRAPINFO does; that of causes 0x01 to 0x05 and 0x08 is the word's address (DESIGN CHOICE, log 84). -/
def trapRecord (s : State) (tid : Nat) (t : Trap) (more : Bool) : List Byte :=
  let x := s.thread tid
  let status := (x.seq + 1) % 2 ^ 32 * 2 ^ 32 + (if more then 2 ^ 19 else 0) + (if x.loop.isSome then 2 ^ 18 else 0)
    + (if isExe tid then 2 ^ 17 else 0) + (if t.eng then 2 ^ 16 else 0) + t.reason % 256 * 2 ^ 8 + t.cause
  let addr := if t.kind = 2 then 2 ^ 63 + t.info % 2 ^ 13 else if t.kind = 1 then t.info else 0
  leBytes 8 x.pc.toNat ++ leBytes 8 status ++ leBytes 8 addr ++ leBytes 8 t.c01.toNat ++ leBytes 8 t.c23.toNat
    ++ leBytes 8 t.issue ++ leBytes 16 t.upc ++ leBytes 8 (loopst x).toNat
    ++ leBytes 8 (queuesWord (s.core (coreOf tid))).toNat ++ leBytes 8 s.tick

/-- Signal a service core (R280, R306) (DESIGN CHOICE, log 65). -/
def notify (s : State) (d : Nat) (n : Notice) : State :=
  s.setDie d { s.die d with notices := (s.die d).notices ++ [n] }

/-- Write a record in the trap area: every field but CONTROL, and the reserved bytes as zero (R281) (DESIGN CHOICE, log 65). -/
def writeTrapRecord (s : State) (a : Nat) (l : List Byte) : State := devWrite (devWrite s a l) (a + 0x60) (List.replicate 32 0)

/-- The bytes of a core notice of cause 0x38 or 0x3F (R280). -/
def noticeRecord (s : State) (c : Core) (cause : Nat) : List Byte :=
  leBytes 8 0 ++ leBytes 8 ((c.noticeSeq + 1) % 2 ^ 32 * 2 ^ 32 + cause) ++ List.replicate 56 0
    ++ leBytes 8 (queuesWord c).toNat ++ leBytes 8 s.tick

/-- A notice record is written at its address and the service core of the core's die is signalled (R280). -/
def putNotice (s : State) (core a : Nat) (l : List Byte) : State := notify (writeTrapRecord s a l) (dieOf core) (.core core)

/-- A core notice in record k = 2 of a live core (R280). -/
def writeNotice (s : State) (core cause : Nat) : State :=
  let c := s.core core
  putNotice (s.setCore core { c with noticeSeq := c.noticeSeq + 1 }) core (trapAddr s core 2) (noticeRecord s c cause)

/-! ## Ending a tenancy (13 R265) and removing a context (14 R288) -/

/-- Cores of a group. -/
def groupCores (g : Nat) : List Nat := [4 * g, 4 * g + 1, 4 * g + 2, 4 * g + 3]
/-- Groups a partition is live on. -/
def liveGroups (s : State) (p : Nat) : List Nat := (List.range 64).filter fun g => (s.group g).live == some p
/-- Cores a partition is live on. -/
def liveCores (s : State) (p : Nat) : List Nat := (liveGroups s p).flatMap groupCores

/-- A core's records that a `dusk` leaves: started, running, no marker and no collective, which ends with its partition
(R265 step 3, R266). -/
def keepRunning (l : List Rec) : List Rec := l.filter fun r => r.status == .running && r.op != .note && r.op != .coll

/-- An atomic on its way of a thread that is discarded goes on to its home, where nothing waits for its reply (R266). -/
def leaveAmo (s : State) (tid : Nat) : State :=
  match (s.thread tid).status with
  | .waiting (.amo r) => { s with lateAmos := s.lateAmos ++ [(tid, r)] }
  | _ => s

/-- One that arrives under an ended generation is dropped: logged where its partition does not own the element, and counted elsewhere
(R263, R266). -/
def dropAmo (s : State) (r : AmoReq) : State :=
  let st := r.place.store
  let u := unitOf st r.place.addr
  if owns s (tagPart r.tag) st (unitRange st u).1 then lateWrite s r.tag st u else logUnowned s { tag := r.tag } st [u]

/-- Queues without the entries that records have reserved (R288; 12 R251). -/
def takenGone (q : Tab (List Entry)) : Tab (List Entry) := q.map fun e => (e.1, e.2.filter fun x => x.taker.isNone)

/-- The reservations of a record end (07 R146). -/
def endReservations (s : State) (core rid : Nat) : State :=
  { s with cores := s.cores.map fun c => (c.1, { c.2 with reservations := c.2.reservations.filter fun r =>
      !(r.leader == core && r.rid == rid) }) }

/-- A group's array that a discarded cooperative record holds goes back (07 R138, R144). -/
def freeArray (s : State) (core rid g : Nat) : State :=
  if (s.group g).lent = some (core, rid) then
    (groupCores g).foldl (fun s c =>
      let x := s.core c
      if x.lease.lender = some (core % 64) then s.setCore c { x with lease := { x.lease with lender := none, waitFrom := s.cycle } } else s)
      (s.setGroup g { s.group g with lent := none })
  else s

/-- What a discarded cooperative record held on its participants is theirs again. -/
def dropCoop (s : State) (core : Nat) (x : Rec) : State :=
  if x.op = .mmulc then (List.range 64).foldl (fun s g => freeArray s core x.id g) (endReservations s core x.id) else s

/-- A discarded thread: what its window, slots, predicates and frames hold stays as it was written, under its tag (02 R21;
R266), and the thread is off. -/
def deadThread (t : Thread) : Thread :=
  { window := t.window, sslots := t.sslots, vslots := t.vslots, preds := t.preds, mods := t.mods, frames := t.frames, tag := t.tag }

/-- A core after its threads and unstarted records are discarded. -/
def stopCore (s : State) (c : Nat) (all : Bool) : State :=
  let f : List Rec → List Rec := fun l => if all then [] else keepRunning l
  let gone := (s.core c).matQ.filter fun r => !(f (s.core c).matQ).contains r
  let s0 := gone.foldl (fun s r => dropCoop s c r) ([2 * c, 2 * c + 1].foldl leaveAmo s)
  let x := s0.core c
  let s1 := s0.setCore c { x with matQ := f x.matQ, copyQ := f x.copyQ, collQ := f x.collQ, launch := none,
                                  queues := if all then takenGone x.queues else x.queues, owed := [],
                                  lease := if all then {} else { x.lease with claim := x.lease.claim && (f x.matQ).any fun r => r.op != .mmulc && r.op != .note } }
  (s1.setThread (2 * c) (deadThread (s1.thread (2 * c)))).setThread (2 * c + 1) (deadThread (s1.thread (2 * c + 1)))

/-- A shadow context of a partition is discarded: the bank keeps the place, empty. -/
def dropShadow (s : State) (p g : Nat) : State :=
  match (s.group g).shadow with
  | some c => if c.part = p then s.setGroup g { s.group g with shadow := some { part := p } } else s
  | none => s

/-- Pages of a partition return to their homes (21 R336); one in home mode stays as it is. -/
def returnPages (s : State) (p : Nat) : State :=
  s.pageModes.foldl (fun s e =>
    match e.2.owner with
    | some o => if owns s p (.hbm (e.1 / 2 ^ 28)) (e.1 % 2 ^ 28 * 4096) then pageBack s o (e.1 / 2 ^ 28) e.1 else s
    | none => s) s

/-- The partition is live on every group it owns, and owns one. -/
def liveAll (s : State) (p : Nat) : Bool :=
  (s.part p).groups != 0 && (ownedGroups s p).all fun g => (s.group g).live == some p

/-- A pass begins: the generation is recorded (13 R267) (DEDUCED, log 43). -/
def startSweep (s : State) (p : Nat) (asked : Option Nat) : State :=
  { s with sweeps := s.sweeps ++ [{ part := p, s := (s.part p).gen, asked }] }
/-- A pass of the partition is running. -/
def sweeping (s : State) (p : Nat) : Bool := s.sweeps.any (·.part == p)
/-- The device starts a pass of its own where the generation is 192 or more past the low mark (13 R267). -/
def autoSweep (s : State) (p : Nat) : State :=
  if p ≠ 0 ∧ sweeping s p = false ∧ 192 ≤ ((s.part p).gen - (s.part p).low).toNat then startSweep s p none else s

/-- Steps 2 to 4 of `dusk p` (R265), and the end of what R338 ends (DEDUCED, log 41). The checking points that the schedule
makes slow still hold the generation before. -/
def duskNow (s : State) (p : Nat) : State :=
  let all := (s.part p).saved || !liveAll s p
  let s1 := (liveCores s p).foldl (fun s c => stopCore s c all) s
  let s2 := (List.range 64).foldl (fun s g => dropShadow s p g) s1
  let s3 := returnPages s2 p
  let q := s3.part p
  let ended := q.eventWaits.map fun e => OutMsg.ended e.id q.gen.toNat
  autoSweep { s3.setPart p { q with isOpen := false, gen := succGen p q.gen, prev := q.gen, behind := q.slow, slow := [],
                                    launches := [], arrivals := [], stuckSyncs := [], switching := none, saved := false,
                                    resume := false, removeDue := false, slipCount := 0, eventWaits := [] } with
              out := s3.out ++ ended } p

/-- Step 6 of `dusk p`, as it returns: sessions and objects end, and so do event waits taken since at a checking point that was
slow; what is still in flight under an ended generation is dropped wherever it arrives (R265, R266; 21 R338) (DEDUCED, log 41). -/
def duskEnd (s : State) (p : Nat) : State :=
  let q := s.part p
  let late := fun (a : Nat × AmoReq) => tagPart a.2.tag == p && a.2.tag != tagOf s p
  let s1 := (s.lateAmos.filter late).foldl (fun s a => dropAmo s a.2) s
  { s1.setPart p { s1.part p with objects := [], sessions := [], eventWaits := [] } with
    out := s1.out ++ q.eventWaits.map fun e => OutMsg.ended e.id (tagGen e.tag)
    lateAmos := s.lateAmos.filter fun a => !late a
    writes := s1.writes.map fun w => if tagPart w.tag == p && w.tag != tagOf s p then { w with stale := true } else w }

/-- `dusk` would reach the low mark (R265 step 1). -/
def duskRefused (s : State) (p : Nat) : Bool := succGen p (s.part p).gen == (s.part p).low

/-- A `dusk` that context removal performs: refused at the low mark, p stays closed with its threads discarded (R288). -/
def duskOrClose (s : State) (p : Nat) : State :=
  if duskRefused s p || (s.part p).groups == 0 then
    let s1 := (liveCores s p).foldl (fun s c => stopCore s c true) s
    s1.setPart p { s1.part p with isOpen := false, launches := [], arrivals := [], stuckSyncs := [], removal := none, removeDue := false }
  else
    let s1 := duskNow s p
    duskEnd (s1.setPart p { s1.part p with removal := none, behind := [] }) p

/-- A notice 0x3F for each core of a group where p is live or in the shadow bank. -/
def removalNotices (s : State) (p g : Nat) : State :=
  let at_ := fun c => (s.part p).trapbase + c * 384 + 256
  if (s.group g).live = some p then (groupCores g).foldl (fun s c => writeNotice s c 0x3F) s
  else
    match (s.group g).shadow with
    | some x =>
      if x.part = p then
        (groupCores g).foldl (fun s c => putNotice s c (at_ c) (noticeRecord s (tget x.cores c {}) 0x3F)) s
      else s
    | none => s

/-- Step 1 of removal: p closes and each of its cores gets a notice 0x3F (R288). Threads fetch empty bundles from now. -/
def removalStart (s : State) (p : Nat) : State :=
  let s1 := s.setPart p { s.part p with isOpen := false, removal := some { cycle := s.cycle } }
  (ownedGroups s1 p).foldl (fun s g => removalNotices s p g) s1

/-- Steps 3 to 6 of removal: queues flushed, flag files cleared, shadow contexts discarded, then `dusk` (R288). -/
def removalEnd (s : State) (p : Nat) : State :=
  let s1 := (liveCores s p).foldl (fun s c => stopCore s c true) s
  let s2 := (liveGroups s1 p).foldl (fun s g => s.setGroup g { s.group g with flags := [], lent := none }) s1
  let s3 := (List.range 64).foldl (fun s g => dropShadow s p g) s2
  duskOrClose s3 p

/-! ## Taking a cause -/

/-- A firmware failure ends every partition, as if each had been removed; the package waits for the host (R296). -/
def firmwareFailure (s : State) : State :=
  let ps := (List.range 16).filter fun p => p != 0 && ((s.part p).groups != 0 || (s.part p).isOpen)
  let s1 := ps.foldl (fun s p => removalEnd (removalStart s p) p) s
  let s2 := (List.range 4).foldl (fun s d => s.setThread (svcThread d) {}) s1
  { s2 with firmware := .failed }

/-- A finished single step is a pending cause 0x32 (14 R286). -/
def stepPend (t : Thread) : Thread :=
  if t.stepMode = .fired then { t with pend := t.pend ++ [{ cause := 0x32 }], stepMode := .none } else t

/-- The thread as it stands at a trap (R279, R282): stopped, with TRAPINFO of the cause. Causes 0x30 and 0x31 continue
at the next word after `tret` (R283). A wait is taken as not begun (DEDUCED, log 12). The 0x32 of a finished step stays
pending, one that has not run its instruction ends (R284, R286). -/
def trapThread (t : Thread) (c : Trap) : Thread :=
  let u := stepPend t
  { u with status := .trapped, trapinfo := trapinfoOf c, seq := t.seq + 1, stepMode := .none, soft := false, hard := false, blk := none,
           cont := c.cause == 0x30 || c.cause == 0x31, ansRec := c.rid, fin := t.fin || t.status == .done }

/-- A thread takes a cause (R280): the trap record is written, TRAPINFO is set, and the service core of its die is
signalled. On a service core it is a firmware failure, logged with kind 6 (R296, 02 R357). -/
def takeCause (s : State) (tid : Nat) (c : Trap) : State :=
  let core := coreOf tid
  let s0 := match c.errAt with
    | some (d, loc) => logErr s d 2 1 (tagOf s 0) loc
    | none => s
  if isSvc core then
    firmwareFailure (logErr s0 (dieOf core) 6 c.cause (tagOf s 0) (s0.thread tid).pc.toNat)
  else
    let more := !(stepPend (s0.thread tid)).pend.isEmpty
    let s1 := writeTrapRecord s0 (trapAddr s0 core (tid % 2)) (trapRecord s0 tid c more)
    notify (s1.setThread tid (trapThread (s1.thread tid) c)) (dieOf core) (.trap core (tid % 2))

/-! ## Pending causes (14 R284, R285) -/

/-- Place of a pending cause in the order of R284. -/
def pendRank (t : Trap) : Nat :=
  if t.cause = 0x1A then 1
  else if t.cause = 0x39 then 3
  else if t.cause = 0x32 then 4
  else if t.rid.isSome then 2
  else 0

/-- One pending cause goes before another: by the order of R284, record faults by their issue. -/
def pendBefore (a b : Trap) : Bool :=
  decide (pendRank a < pendRank b) || (pendRank a == 2 && pendRank b == 2 && decide (a.rid.getD 0 < b.rid.getD 0))

/-- The pending cause to take. -/
def firstPend : List Trap → Option Trap
  | [] => none
  | t :: l => match firstPend l with
    | none => some t
    | some u => if pendBefore u t then some u else some t

/-- A thread stopped at a trap has one more cause pending: MORE, bit 19 of STATUS, is set in its trap record (R285), although R280
has the device write nothing more there before the thread's next cause (DESIGN CHOICE, log 83). -/
def markMore (s : State) (tid : Nat) : State :=
  match flat0 (trapAddr s (coreOf tid) (tid % 2) + 10) with
  | some (d, a) => storeCells s (who0 s) (.hbm d) [{ addr := a, val := 8, mask := 8 }]
  | none => s

/-- A cause becomes pending on a thread. -/
def addPend (s : State) (tid : Nat) (t : Trap) : State :=
  let s1 := if (s.thread tid).status = .trapped then markMore s tid else s
  s1.setThread tid { s1.thread tid with pend := (s1.thread tid).pend ++ [t] }

/-- A cause waits for the thread's next boundary. -/
def causeWaits (t : Thread) : Bool := !t.pend.isEmpty || t.stepMode == .fired

/-- A thread takes the first of its pending causes, a single step among them; the others stay pending (R284). -/
def takePend (s : State) (tid : Nat) : State :=
  let t := stepPend (s.thread tid)
  match firstPend t.pend with
  | none => s
  | some c => takeCause (s.setThread tid { t with pend := t.pend.erase c }) tid c

/-- The instruction waits: its thread is parked and its pc stays (10 R208) (DEDUCED, log 12). -/
def park (s : State) (w : Wait) : State := s.setTh { s.th with status := .waiting w }

/-- Queue loads of the access thread whose checks or data are still out (10 R196). -/
def loadsPending (s : State) (core : Nat) : Bool :=
  (s.core core).queues.any fun q => q.2.any fun e => e.filler.isNone && e.status != .ready

/-- An effect outside an access thread waits until its queue loads are settled (R196). -/
def holdLoads (s : State) (f : Unit → State) : State :=
  if !isExe s.cur && loadsPending s (coreOf s.cur) then park s .loads else f ()

/-- The thread an instruction acts on takes a cause, with no other effect (R73 Trap). An access thread takes it once its
earlier queue loads are settled, which may meet a cause of their own first (R279, 10 R195). -/
def raise (s : State) (c : Trap) : State :=
  if !isExe s.cur && loadsPending s (coreOf s.cur) then park s .loads else takeCause s s.cur c

/-- An instruction on thread state alone ends in a cause or in the thread after it. -/
def ofThread (s : State) (r : ThreadStep) : State :=
  match r with
  | .error c => raise s c
  | .ok t => s.setTh t

/-- The instruction has been done: its thread goes on with the values appended. -/
def finishIn (s : State) (xs : List Val) (fl : Flags := 0) (bytes : Nat := 8) : State :=
  s.setTh (finishThread s.th xs fl bytes)

/-- An instruction with an effect beyond its thread, `n` lanes under the guard: causes 0x02 and 0x03 first, then nothing
but zeros when it is wholly disabled, then the cause of its privilege, then cause 0x19 for lost data, then its effect
(R55, R72, R284, R292). Lost data in a window position, slot, predicate, call frame or popped entry has no address and no handle: its
cause 0x19 has KIND 0 and INFO 0 (DESIGN CHOICE, log 103). -/
def effectGate (s : State) (h : Hdr) (n : Nat) (gate : Option Trap) (ops : Except Nat (List Val)) (zeros : List Val)
    (f : List Val → State) (bytes : Nat := 8) : State :=
  match ops with
  | .error c => raise s (wordTrap s.th c)
  | .ok vs =>
    if guardLost s.th h then raise s { cause := 0x19 }
    else if !enabledAny s.th h n then finishIn s (disabledVals s.th h zeros) 0 bytes
    else
      match gate with
      | some c => raise s c
      | none => if vs.any (·.isLost) then raise s { cause := 0x19 } else f vs

/-- One without privilege. -/
abbrev effectLanes (s : State) (h : Hdr) (n : Nat) (ops : Except Nat (List Val)) (zeros : List Val)
    (f : List Val → State) (bytes : Nat := 8) : State := effectGate s h n none ops zeros f bytes

/-- The same under guard bit 0. -/
abbrev effectOp (s : State) (h : Hdr) (ops : Except Nat (List Val)) (zeros : List Val) (f : List Val → State) : State :=
  effectLanes s h 1 ops zeros f

/-- LATEW of a partition counts `n` dropped write elements (R263, R266). -/
def countLateN (s : State) (p n : Nat) : State :=
  let q := s.part p
  s.setPart p { q with latew := BitVec.ofNat 32 (min 0xFFFFFFFF (q.latew.toNat + n)) }

/-- The next state. -/
abbrev Out := Host.Outcome State Fault Refusal

end Sys2Proof.Machine
end

