-- ==== Sys2Proof/Machine/Access.lean ====
section
/-! DEFINITION. Addresses, windows, tensor descriptors, shard maps, page tables and TLB entries: from an address or
coordinates to the place of an element, or the cause of R180 (02 R17; 10 R179-R181, R186, R191; 13 R269-R274). -/

namespace Sys2Proof.Machine

open Sys2Proof

/-- What an access needs of a page (R181). -/
inductive Acc where
  | load | store | atomic | fetch
deriving DecidableEq, Repr

def Acc.reads : Acc → Bool
  | .load | .atomic => true
  | _ => false
def Acc.writes : Acc → Bool
  | .store | .atomic => true
  | _ => false

/-! ## Structures in partition 0 storage -/

/-- HBM of a die as a device structure is read: as of a core's last refresh, or now (R274). -/
def devMem (s : State) (view : Option (Tab Memory)) (d : Nat) : Memory :=
  match view with
  | some v => tget v d {}
  | none => (s.die d).hbm

/-- A byte of partition 0 storage at a flat address. -/
def devByte (s : State) (view : Option (Tab Memory)) (a : Nat) : Byte :=
  match flat0 a with
  | some (d, x) =>
    let m := devMem s view d
    if m.tag (x / 64) == tagOf s 0 then m.byte x else 0
  | none => 0

/-- `n` bytes as a little-endian number. -/
def devNat (s : State) (view : Option (Tab Memory)) (a n : Nat) : Nat :=
  leNat ((List.range n).map fun i => devByte s view (a + i))

/-- A poisoned unit among [a, a + n) of partition 0 storage. -/
def devPoison (s : State) (view : Option (Tab Memory)) (a n : Nat) : Option (Nat × Nat) :=
  match flat0 a with
  | some (d, x) =>
    let m := devMem s view d
    (m.poison.find? fun c =>
      decide (x / 64 ≤ c.1) && decide (c.1 ≤ (x + n - 1) / 64) && m.tag c.1 == tagOf s 0).map fun c => (d, 64 * c.1)
  | none => none

/-- The HBM of every die now, as a refresh takes it (R274) (DESIGN CHOICE, log 61). -/
def viewNow (s : State) : Tab Memory :=
  (List.range 4).foldl (fun t d => tput {} t d (s.die d).hbm) []

/-! ## Descriptors (R269) -/

/-- A tensor descriptor. -/
structure Desc where
  version : Nat := 0
  order : List Nat := [0, 1, 2, 3]
  sealed_ : Bool := false
  r : Bool := false
  w : Bool := false
  x : Bool := false
  rank : Nat := 0
  ty : Ty := .n8
  ext : List Nat := [1, 1, 1, 1]
  gran : List Nat := [0, 0, 0, 0]
  smap : Nat := 0
  scnt : Nat := 0
deriving DecidableEq, Repr

/-- The element type and constraints of R269 hold. -/
def descOk (tyCode : Nat) (d : Desc) (h : Nat) : Bool :=
  (tyOf (BitVec.ofNat 7 tyCode)).isSome && decide (d.rank ≤ 4)
    && (List.range 4).all (fun k => d.order.contains k)
    && (if h = 0 then d.rank == 1 && d.ty == .n8 && d.gran == [12, 0, 0, 0]
        else (2 ^ (d.gran.foldl (· + ·) 0)) * d.ty.width == 32768
          && (List.range 4).all (fun k => decide (k < d.rank) || (d.gran.getD k 0 == 0 && d.ext.getD k 1 == 1)))

/-- A poisoned line of the descriptor of a handle of a partition: its die and location (14 R292). Handle 0 of partition 0 has none. -/
def descPoison (s : State) (view : Option (Tab Memory)) (p h : Nat) : Option (Nat × Nat) :=
  if p = 0 ∧ h = 0 then none else devPoison s view ((s.part p).tdt + 64 * h) 64

/-- The descriptor of a handle of a partition; rank 0 when there is none or it breaks R269 (DESIGN CHOICE, log 61), and when its data
is lost, which whoever uses it reports first. -/
def readDesc (s : State) (view : Option (Tab Memory)) (p h : Nat) : Desc :=
  if (descPoison s view p h).isSome then {} else
  let a := (s.part p).tdt + 64 * h
  let w := fun i => devNat s view (a + 8 * i) 8
  let f := fun (x lo n : Nat) => x / 2 ^ lo % 2 ^ n
  let w0 := w 0
  let ext := if h = 0 then [w 1, 1, f (w 2) 0 32, f (w 2) 32 32]
    else [f (w 1) 0 32, f (w 1) 32 32, f (w 2) 0 32, f (w 2) 32 32]
  let d : Desc :=
    { version := f w0 32 32, order := (List.range 4).map fun j => f w0 (24 + 2 * j) 2, sealed_ := f w0 17 1 == 1,
      x := f w0 16 1 == 1, w := f w0 15 1 == 1, r := f w0 14 1 == 1, rank := f w0 7 3,
      ty := (tyOf (BitVec.ofNat 7 (f w0 0 7))).getD .n8, ext,
      gran := (List.range 4).map fun j => f (w 3) (6 * j) 6, smap := f (w 4) 0 48, scnt := f (w 4) 48 8 }
  if descOk (f w0 0 7) d h && (h != 0 || d.ext == [0xF00000000000, 1, 1, 1]) then d else { d with rank := 0 }

/-! ## Shard maps (R270) -/

/-- An entry of a shard map. -/
structure Shard where
  idx : Nat
  lo : List Nat
  hi : List Nat
  root : Nat
  pkg : Nat
  die : Nat
  kind : Nat
  dim : Nat
  nown : Nat
  blk : Nat
deriving DecidableEq, Repr

def readShard (s : State) (view : Option (Tab Memory)) (d : Desc) (h i : Nat) : Shard :=
  let a := d.smap + 64 * i
  let n := fun o k => devNat s view (a + o) k
  { idx := i, lo := if h = 0 then [n 0 8, 0, 0, 0] else (List.range 4).map fun k => n (4 * k) 4,
    hi := if h = 0 then [n 0x10 8, 1, 1, 1] else (List.range 4).map fun k => n (0x10 + 4 * k) 4,
    root := n 0x20 8, pkg := n 0x28 2, die := n 0x2A 1, kind := n 0x2B 1, dim := n 0x2C 1, nown := n 0x2D 1,
    blk := n 0x30 4 }

/-- The entry keeps the constraints of R270. -/
def shardOk (s : State) (view : Option (Tab Memory)) (d : Desc) (h : Nat) (e : Shard) : Bool :=
  let a := d.smap + 64 * e.idx
  let z := devNat s view (a + 0x2E) 2 == 0 && devNat s view (a + 0x34) 12 == 0
  let flatOk := h != 0 || (devNat s view (a + 8) 8 == 0 && devNat s view (a + 0x18) 8 == 2 ^ 32 + 1)
  z && flatOk && e.root % 4096 == 0 && decide (e.root < 2 ^ 40) && decide (e.die < 4)
    && (e.kind == 0 ||
      (e.kind == 1 && decide (e.dim < 4) && (h != 0 || e.dim == 0) && decide (1 ≤ e.nown) && decide (e.die + e.nown ≤ 4)
        && e.blk != 0 && e.blk % 2 ^ (d.gran.getD e.dim 0) == 0
        && (e.hi.getD e.dim 0 - e.lo.getD e.dim 0) % (e.blk * e.nown) == 0))

/-- The entry's box holds the coordinates. -/
def shardHolds (e : Shard) (c : List Nat) : Bool :=
  (List.range 4).all fun k => decide (e.lo.getD k 0 ≤ c.getD k 0) && decide (c.getD k 0 < e.hi.getD k 0)

/-- The first entry from number `i` whose box holds the coordinates; `n` entries are left. -/
def findShard (s : State) (view : Option (Tab Memory)) (d : Desc) (h : Nat) (c : List Nat) : Nat → Nat → Option Shard
  | 0, _ => none
  | n + 1, i =>
    let e := readShard s view d h i
    if shardOk s view d h e && shardHolds e c then some e else findShard s view d h c n (i + 1)

/-- The first poisoned entry of those that `findShard` looks at, up to the one that holds the coordinates: its die and location
(R270; 14 R292). -/
def shardPoison (s : State) (view : Option (Tab Memory)) (d : Desc) (h : Nat) (c : List Nat) : Nat → Nat → Option (Nat × Nat)
  | 0, _ => none
  | n + 1, i =>
    match devPoison s view (d.smap + 64 * i) 64 with
    | some l => some l
    | none =>
      let e := readShard s view d h i
      if shardOk s view d h e && shardHolds e c then none else shardPoison s view d h c n (i + 1)

/-- The entry names this package. -/
def shardLocal (s : State) (e : Shard) : Bool :=
  e.pkg == 0xFFFF || s.pkgNum.toNat == e.pkg

/-- Owner die of the coordinates (R270). -/
def shardDie (e : Shard) (c : List Nat) : Nat :=
  if e.kind = 1 then e.die + (c.getD e.dim 0 - e.lo.getD e.dim 0) / e.blk % e.nown else e.die

/-- Page number and byte offset in a granule (R271). -/
def pageOf (d : Desc) (e : Shard) (c : List Nat) : Nat × Nat :=
  let bn := e.blk * e.nown
  let u := (List.range 4).map fun k =>
    let x := c.getD k 0 - e.lo.getD k 0
    if e.kind = 1 ∧ k = e.dim then x / bn * e.blk + x % e.blk else x
  let ext := (List.range 4).map fun k =>
    let x := e.hi.getD k 0 - e.lo.getD k 0
    if e.kind = 1 ∧ k = e.dim then x / e.nown else x
  let g := fun k => 2 ^ d.gran.getD k 0
  let pr := d.order.foldl (fun (acc : Nat × Nat) k =>
    (acc.1 + u.getD k 0 / g k * acc.2, acc.2 * ((ext.getD k 0 + g k - 1) / g k))) (0, 1)
  let within := ((u.getD 3 0 % g 3 * g 2 + u.getD 2 0 % g 2) * g 1 + u.getD 1 0 % g 1) * g 0 + u.getD 0 0 % g 0
  (pr.1, if d.ty.width = 4 then within / 2 else within * (d.ty.width / 8))

/-! ## Page tables (R271) -/

/-- A page-table entry; `bits` is its value with the reserved bits zero, as they read (00 R7). -/
structure Pte where
  bits : Nat
  v : Bool
  frame : Nat
  size : Nat
  leaf : Bool
  r : Bool
  w : Bool
  x : Bool
  pfset : Nat
  /-- SIZE is not the reserved 3. -/
  ok : Bool
deriving DecidableEq, Repr

/-- The fields of an entry: [62:60], [39:12], [8:3] and [0]. -/
def pteMask : Word := 0x700000FFFFFFF1F9#64

/-- A page-table entry from its 8 bytes. -/
def pteOf (n : Nat) : Pte :=
  let b := (BitVec.ofNat 64 n &&& pteMask).toNat
  let f := fun lo k => b / 2 ^ lo % 2 ^ k
  { bits := b, v := f 0 1 == 1, frame := f 12 28 * 4096, size := f 7 2, leaf := f 6 1 == 1, r := f 3 1 == 1,
    w := f 4 1 == 1, x := f 5 1 == 1, pfset := f 60 3, ok := f 7 2 != 3 }

/-- The entry at a frame address of a die's stacks, which lie in partition 0 storage. -/
def readPte (s : State) (d a : Nat) : Pte := pteOf (devNat s none (d * 2 ^ 40 + a) 8)

/-- What a walk finds: the frame and first page number of the page, its granules, permissions and where its leaf is. -/
structure Leaf where
  frame : Nat
  page : Nat
  pages : Nat
  r : Bool
  w : Bool
  x : Bool
  pfset : Nat
  at_ : Nat
deriving DecidableEq, Repr

/-- Address of the level-3 entry of a page, or of the level-2 leaf that maps it; `none` where a table is missing. -/
def leafAddr (s : State) (d root page : Nat) : Option (Nat × Nat) :=
  if 2 ^ 27 ≤ page then none
  else
    let e1 := readPte s d (root + 8 * (page / 2 ^ 18))
    if !e1.v || !e1.ok || e1.leaf then none
    else
      let a2 := e1.frame + 8 * (page / 512 % 512)
      let e2 := readPte s d a2
      if !e2.v || !e2.ok then none
      else if e2.leaf then some (2, a2)
      else some (3, e2.frame + 8 * (page % 512))

/-- The walk of R271; `none` is cause 0x10 (DESIGN CHOICE, log 60). -/
def walk (s : State) (d root page : Nat) : Option Leaf :=
  match leafAddr s d root page with
  | none => none
  | some (lvl, a) =>
    let e := readPte s d a
    if !e.v || !e.ok || !e.leaf then none
    else if lvl = 2 then
      if e.size = 2 ∧ e.frame % 0x200000 = 0 ∧ e.frame + 0x200000 ≤ Config.hbmBytes then
        some { frame := e.frame, page := page / 512 * 512, pages := 512, r := e.r, w := e.w, x := e.x, pfset := e.pfset, at_ := a }
      else none
    else if e.size = 0 ∧ e.frame + 4096 ≤ Config.hbmBytes then
      some { frame := e.frame, page, pages := 1, r := e.r, w := e.w, x := e.x, pfset := e.pfset, at_ := a }
    else if e.size = 1 ∧ e.frame % 0x10000 = 0 ∧ e.frame + 0x10000 ≤ Config.hbmBytes then
      let b := a - 8 * (page % 16)
      if (List.range 16).all fun i => (readPte s d (b + 8 * i)).bits == e.bits then
        some { frame := e.frame, page := page / 16 * 16, pages := 16, r := e.r, w := e.w, x := e.x, pfset := e.pfset, at_ := a }
      else none
    else none

/-- The walk meets a poisoned page-table entry (R292): its die and location. A 64 KiB group's sixteen entries are all read. -/
def walkPoison (s : State) (d root page : Nat) : Option (Nat × Nat) :=
  let at_ := fun a n => devPoison s none (d * 2 ^ 40 + a) n
  let a1 := root + 8 * (page / 2 ^ 18)
  let e1 := readPte s d a1
  let a2 := e1.frame + 8 * (page / 512 % 512)
  let e2 := readPte s d a2
  let a3 := e2.frame + 8 * (page % 512)
  let e3 := readPte s d a3
  if 2 ^ 27 ≤ page then none
  else if (at_ a1 8).isSome then at_ a1 8
  else if !e1.v || !e1.ok || e1.leaf then none
  else if (at_ a2 8).isSome then at_ a2 8
  else if !e2.v || !e2.ok || e2.leaf then none
  else if (at_ a3 8).isSome then at_ a3 8
  else if e3.v && e3.ok && e3.leaf && e3.size == 1 then at_ (a3 - 8 * (page % 16)) 128
  else none

/-! ## Translation (R272, R273) -/

/-- A page as an access uses it. -/
structure Mapped where
  die : Nat
  /-- Byte address of the granule. -/
  frame : Nat
  r : Bool
  w : Bool
  x : Bool
  pfset : Nat
deriving DecidableEq, Repr

/-- TLB entries of a core that an access may use (R272). -/
def tlbMatches (s : State) (core : Nat) (tag : Tag) (h ver shard page die : Nat) : List TlbEntry :=
  (s.core core).tlb.filter fun e =>
    e.handle == h && e.tag == tag && e.version == ver && e.shard == shard && e.die == die
      && decide (e.page ≤ page) && decide (page < e.page + e.pages)

/-- Byte address of a page's granule through a TLB entry. -/
def TlbEntry.granule (e : TlbEntry) (page : Nat) : Nat := e.frame + (page - e.page) * 4096

/-- The page of an owner die, from the TLB or by a walk: cause 0x10, 0x11 or 0x19 otherwise (DESIGN CHOICE, log 60). Of several
entries the permissions intersect before R40 looks at W and X together (DESIGN CHOICE, log 81). -/
def mapPage (s : State) (core : Nat) (tag : Tag) (h ver shard page die root : Nat) : Except Trap Mapped :=
  match tlbMatches s core tag h ver shard page die with
  | e :: es =>
    if es.any fun x => x.granule page != e.granule page then .error { cause := 0x11 }
    else
      .ok { die, frame := e.granule page, r := e.r && es.all (·.r), w := e.w && es.all (·.w), x := e.x && es.all (·.x),
            pfset := e.pfset }
  | [] =>
    match walkPoison s die root page with
    | some l => .error { cause := 0x19, errAt := some l }
    | none =>
      match walk s die root page with
      | none => .error { cause := 0x10 }
      | some l => .ok { die, frame := l.frame + (page - l.page) * 4096, r := l.r, w := l.w, x := l.x, pfset := l.pfset }

/-- The permissions an access lacks: cause 0x11, then 0x12 for a write to sealed memory (R40, R180, R181). -/
def permCause (d : Desc) (m : Mapped) (acc : Acc) : Option Nat :=
  if m.w && m.x then some 0x11
  else if acc.reads && !(d.r && m.r) then some 0x11
  else if acc.writes && !(d.w && m.w) then some 0x11
  else if acc = .fetch ∧ !(d.x && m.x) then some 0x11
  else if acc.writes && d.sealed_ then some 0x12
  else none

/-- What a flat address reports (R282, R283). -/
def flatTrap (cause a : Nat) : Trap := { cause, kind := 1, info := a }
/-- What a tensor access reports. -/
def tensorTrap (cause h : Nat) (c : List Nat) : Trap :=
  { cause, kind := 2, info := h, c01 := BitVec.ofNat 64 (c.getD 0 0 % 2 ^ 32 + 2 ^ 32 * c.getD 1 0),
    c23 := BitVec.ofNat 64 (c.getD 2 0 % 2 ^ 32 + 2 ^ 32 * c.getD 3 0) }

/-- The coordinate checks of R186, except that `run` leaves coordinate 0 of later lanes to the caller. -/
def coordsOk (d : Desc) (c : List Nat) : Bool :=
  d.rank != 0 && (List.range 4).all fun k =>
    if k < d.rank then decide (c.getD k 0 < d.ext.getD k 0) else c.getD k 0 == 0

/-- The place of an element that another package owns, or why there is none: the page check and the walk are the owner's
(R271), the descriptor's permissions this package's; of the page it is known only what its owner answers (DESIGN CHOICE, log 68). -/
def extPlace (s : State) (d : Desc) (e : Shard) (c : List Nat) (acc : Acc) (t : Trap) : Except Trap Place :=
  let pg := pageOf d e c
  let key := (shardDie e c * 2 ^ 28 + e.root / 4096) * 2 ^ 27 + pg.1
  if 2 ^ 27 ≤ pg.1 then .error { t with cause := 0x10 }
  else
    match Config.extWalk e.pkg key s.cycle % 4 with
    | 1 => .error { t with cause := 0x10 }
    | 2 => .error { t with cause := 0x11 }
    | 3 => .error { t with cause := 0x19 }
    | _ =>
      match permCause d { die := 0, frame := 0, r := true, w := acc != .fetch, x := acc == .fetch, pfset := 0 } acc with
      | some k => .error { t with cause := k }
      | none =>
        .ok { store := .ext e.pkg, addr := key * 4096 + pg.2,
              nib := if d.ty.width = 4 then some (decide ((pageOf { d with ty := .n8 } e c).2 % 2 = 1)) else none }

/-- A flat address of partition 0 at which a die's device shows its log, counters and health (DESIGN CHOICE, log 73). -/
def dev0 (a : Nat) : Option (Nat × Nat) :=
  if a < 2 ^ 42 ∧ logBase ≤ a % 2 ^ 40 ∧ a % 2 ^ 40 < healthBase + 8 then some (a / 2 ^ 40, a % 2 ^ 40) else none

/-- The place of a tensor element of partition p, for an access by a core (R186, R188, R270-R273): `t` reports the
access. Partition 0 reads the flat tensor untranslated (DESIGN CHOICE, log 59). -/
def elemPlace (s : State) (core p : Nat) (tag : Tag) (d : Desc) (h : Nat) (c : List Nat) (acc : Acc) (t : Trap) :
    Except Trap Place :=
  let view := (s.core core).view
  if p = 0 ∧ h = 0 then
    match flat0 (c.getD 0 0) with
    | some (die, a) => .ok { store := .hbm die, addr := a }
    | none =>
      match dev0 (c.getD 0 0) with
      | some (die, a) => if acc = .fetch then .error { t with cause := 0x13 } else .ok { store := .dev die, addr := a }
      | none => .error { t with cause := 0x13 }
  else
    match descPoison s view p h with
    | some l => .error { t with cause := 0x19, errAt := some l }
    | none =>
    if !coordsOk d c then .error { t with cause := 0x13 }
    else
      match shardPoison s view d h c (d.scnt + 1) 0 with
      | some l => .error { t with cause := 0x19, errAt := some l }
      | none =>
      match findShard s view d h c (d.scnt + 1) 0 with
      | none => .error { t with cause := 0x13 }
      | some e =>
        if !shardLocal s e then extPlace s d e c acc t
        else
          let pg := pageOf d e c
          let die := shardDie e c
          match mapPage s core tag h d.version e.idx pg.1 die e.root with
          | .error x => .error { t with cause := x.cause, errAt := x.errAt }
          | .ok m =>
            match permCause d m acc with
            | some k => .error { t with cause := k }
            | none =>
              .ok { store := .hbm die, addr := m.frame + pg.2,
                    nib := if d.ty.width = 4 then some (decide ((pageOf { d with ty := .n8 } e c).2 % 2 = 1)) else none }

/-- The descriptor a core sees of a handle of its partition (R274). -/
def coreDesc (s : State) (core h : Nat) : Desc := readDesc s (s.core core).view (partOf s core) h

/-! ## The 48-bit address space (R17, R179) -/

/-- The part of a die's bank memory that a partition reaches (R17; 15 R302). -/
def bankRange (s : State) (p : Nat) : Nat × Nat :=
  if p = 0 then (0, Config.bankBytes) else ((s.part p).bkbase, min (s.part p).bklim Config.bankBytes)

/-- The place of `n` bytes at an address, with `align` the alignment asked for: causes in the order of R180 (DESIGN CHOICE, log 10 and 59). -/
def flatPlace (s : State) (tid ea n align : Nat) (acc : Acc) : Except Trap Place :=
  let core := coreOf tid
  let p := partOf s core
  let t := flatTrap 0x15 ea
  let mis := ea % align != 0
  let off := ea % 2 ^ 40
  if 2 ^ 48 ≤ ea then .error t
  else
    let sel := ea / 2 ^ 40
    if sel = 0xF0 then
      if Config.nearBytes < off + n then .error t
      else if mis then .error { t with cause := 0x14 } else .ok { store := .near core, addr := off }
    else if sel = 0xF1 then
      let c := off / 2 ^ 20
      let o := off % 2 ^ 20
      let peer := dieOf core * 64 + c
      if 64 ≤ c ∨ Config.nearBytes < o + n then .error t
      else if partOf s peer ≠ p ∨ (p = 0 ∧ ((s.group (groupOf peer)).live.isSome ∨ (s.group (groupOf peer)).shadow.isSome)) then .error t
      else if mis then .error { t with cause := 0x14 } else .ok { store := .near peer, addr := o }
    else if sel = 0xF2 then
      if off < (bankRange s p).1 ∨ (bankRange s p).2 < off + n then .error t
      else if mis then .error { t with cause := 0x14 } else .ok { store := .bank (dieOf core), addr := off }
    else if 0xF3 ≤ sel ∨ 0xF00000000000 < ea + n then .error t
    else if mis then .error { t with cause := 0x14 }
    else elemPlace s core p (tagOf s p) (coreDesc s core 0) 0 [ea, 0, 0, 0] acc t

/-! ## Accesses that do not lie in one granule (R179; 13 R270, R271) -/

/-- Place of a cause in the order of R180. -/
def causeRank (c : Nat) : Nat :=
  match c with
  | 0x15 => 0 | 0x14 => 1 | 0x13 => 2 | 0x10 => 3 | 0x11 => 4 | 0x12 => 5
  | _ => 6

/-- What several elements give, or the first cause of R180 over all of them. -/
def allOf {α : Type} : List (Except Trap α) → Except Trap (List α)
  | [] => .ok []
  | r :: l =>
    match r, allOf l with
    | .ok p, .ok ps => .ok (p :: ps)
    | .error a, .ok _ => .error a
    | .ok _, .error b => .error b
    | .error a, .error b => .error (if causeRank a.cause ≤ causeRank b.cause then a else b)

/-- The first flat address past `pc` that entry `i` of a shard map does not decide, `hi` its end: an earlier entry whose box
begins before it decides from there (13 R270). -/
def shardStop (s : State) (view : Option (Tab Memory)) (d : Desc) (pc hi : Nat) (i : Nat) : Nat :=
  (List.range i).foldl (fun n j =>
    let e := readShard s view d 0 j
    if shardOk s view d 0 e && decide (pc < e.lo.getD 0 0) then min n (e.lo.getD 0 0) else n) hi

/-- Bytes from a flat address of a tenant on that lie in one granule of one entry of its shard map; 0 where none holds it. -/
def flatRoom (s : State) (core ea : Nat) : Nat :=
  let d := coreDesc s core 0
  let view := (s.core core).view
  match findShard s view d 0 [ea, 0, 0, 0] (d.scnt + 1) 0 with
  | none => 0
  | some e => min (4096 - (ea - e.lo.getD 0 0) % 4096) (shardStop s view d ea (e.hi.getD 0 0) e.idx - ea)

/-- An access of `n` bytes to a tenant's flat space reaches past the granule of its first. -/
def flatSplit (s : State) (tid ea n : Nat) : Bool :=
  decide (ea + n ≤ 0xF00000000000) && partOf s (coreOf tid) != 0 && decide (flatRoom s (coreOf tid) ea < n)

/-- One location: its place and its width in bits. -/
abbrev Loc := Place × Nat

/-- The aligned units of `n` bytes at a place: one location of up to 8 bytes, or 8-byte locations (R182) (DEDUCED, log 15). -/
def unitLocs (pl : Place) (n : Nat) : List Loc :=
  if n ≤ 8 then [(pl, 8 * n)] else (List.range (n / 8)).map fun i => ({ pl with addr := pl.addr + 8 * i }, 64)

/-- A unit's bytes as one location where they lie side by side, else a location each. -/
def joinUnit (l : List Place) : List Loc :=
  match l with
  | [] => []
  | p :: _ => if l = (List.range l.length).map fun i => { p with addr := p.addr + i } then [(p, 8 * l.length)] else l.map (·, 8)

/-- The units of `u` bytes of some bytes' places; `n` bounds them. -/
def joinUnits (u : Nat) : Nat → List Place → List Loc
  | 0, _ => []
  | n + 1, l => if l.isEmpty then [] else joinUnit (l.take u) ++ joinUnits u n (l.drop u)

/-- The locations of `n` bytes at an address: units of up to 8 bytes, each byte of one that two granules share by itself. Every
byte is translated where the access is split, and the first cause over all of them is reported for it (R179, R180). -/
def flatLocs (s : State) (tid ea n align : Nat) (acc : Acc) : Except Trap (List Loc) :=
  if !flatSplit s tid ea n || ea % align != 0 then (flatPlace s tid ea n align acc).map (unitLocs · n)
  else
    match allOf ((List.range n).map fun i => flatPlace s tid (ea + i) 1 1 acc) with
    | .error t => .error { t with info := ea }
    | .ok l => .ok (joinUnits (min n 8) n l)

/-- The number that the values of some locations make, the first lowest. -/
def joinVals (ls : List Loc) (vs : List Nat) : Nat := (ls.zip vs).foldr (fun x acc => x.2 % 2 ^ x.1.2 + 2 ^ x.1.2 * acc) 0

/-- A number cut into the values of some locations. -/
def cutVals : List Loc → Nat → List Nat
  | [], _ => []
  | l :: ls, v => v % 2 ^ l.2 :: cutVals ls (v / 2 ^ l.2)

/-- The byte of an access at which each of its locations begins, from `n` on. -/
def locOffs : Nat → List Loc → List Nat
  | _, [] => []
  | n, l :: ls => n :: locOffs (n + l.2 / 8) ls

/-! ## What a walk asks of the memory ports (13 R271; 21 R340, R342) -/

/-- Frame addresses of the entries that a walk reads (R271). -/
def walkReads (s : State) (d root page : Nat) : List Nat :=
  let e1 := readPte s d (root + 8 * (page / 2 ^ 18))
  let a2 := e1.frame + 8 * (page / 512 % 512)
  let e2 := readPte s d a2
  (root + 8 * (page / 2 ^ 18)) ::
    (if !e1.v || !e1.ok || e1.leaf then [] else a2 :: (if !e2.v || !e2.ok || e2.leaf then [] else [e2.frame + 8 * (page % 512)]))

/-- The entries that translating an element reads, each with its die, where no TLB entry of the core serves it. -/
def missWalk (s : State) (core p : Nat) (tag : Tag) (d : Desc) (h : Nat) (c : List Nat) : List (Nat × Nat) :=
  if p = 0 ∧ h = 0 then []
  else
    match findShard s (s.core core).view d h c (d.scnt + 1) 0 with
    | none => []
    | some e =>
      let die := shardDie e c
      let pg := (pageOf d e c).1
      if shardLocal s e && (tlbMatches s core tag h d.version e.idx pg die).isEmpty then (walkReads s die e.root pg).map (die, ·)
      else []

/-- They are read at their owner's memory port, as accesses of the core's die (21 R336, R340). -/
def askWalk (s : State) (core : Nat) (tag : Tag) (l : List (Nat × Nat)) : State :=
  l.foldl (fun s a => readPort (touchFrame s (dieOf core) { store := .hbm a.1, addr := a.2 }) { tag } (.hbm a.1) a.2 8) s

/-- The walk of a thread's access at a flat address. -/
def askFlat (s : State) (tid ea : Nat) : State :=
  let core := coreOf tid
  let p := partOf s core
  if p = 0 ∨ 0xF00000000000 ≤ ea then s
  else askWalk s core (tagOf s p) (missWalk s core p (tagOf s p) (coreDesc s core 0) 0 [ea, 0, 0, 0])

end Sys2Proof.Machine
end

