-- ==== Sys2Proof/Machine/Fetch.lean ====
section
/-! DEFINITION. Fetching: translated blocks, profiles, the place rules of words (03 R27, R29, R40-R45; 04 R56, R68, R72). -/

namespace Sys2Proof.Machine

open Sys2Proof

/-- Words of the instruction that starts with `w` (04 R65, R68) (DESIGN CHOICE, log 66). -/
def wordLen (w : Word) : Nat :=
  let maj := (w.extractLsb' 60 4).toNat
  let min := (w.extractLsb' 52 8).toNat
  if maj = 0xC then (if assigned w then 8 else 1) else if maj = 0xE ∧ min = 1 then 2 else 1

/-- A word that ends a translated block: a transfer, or no instruction. -/
def endsBlock (w : Word) : Bool :=
  let maj := (w.extractLsb' 60 4).toNat
  maj == 6 || maj == 0 || maj == 0xF

/-- A block head: a `nop` whose bit 15 is set (04 R52). -/
def isHead (w : Word) : Bool := w.extractLsb' 52 12 == 0xE00#12 && w.getLsbD 15

/-- The profile an encoding belongs to (R27). -/
def profileOf (w : Word) : Nat :=
  let maj := (w.extractLsb' 60 4).toNat
  let min := (w.extractLsb' 52 8).toNat
  if maj = 2 then 1 else if maj = 8 then 2 else if maj = 0xB then 3
  else if maj = 0xC then (if min < 4 then 3 else 5)
  else if maj = 5 ∧ (min = 0xF ∨ min = 0x10) then 3
  else if maj = 4 then 4 else 0

/-- Address of a profile-set entry. -/
def profileAt (s : State) (p k : Nat) : Nat := (s.part p).tdt + 0x80000 + 16 * k
/-- The profile versions of a profile-set entry (R42, 13 R269). -/
def profileSet (s : State) (p k : Nat) : List Nat :=
  (List.range 5).map fun i => devNat s none (profileAt s p k + 2 * i) 2

/-- The page's profile-set number and the first flat address that another entry of the shard map decides, for a pc of a
tenant whose word has a place. -/
def codePage (s : State) (core p pc : Nat) : Nat × Nat :=
  let d := coreDesc s core 0
  match findShard s (s.core core).view d 0 [pc, 0, 0, 0] (d.scnt + 1) 0 with
  | none => (0, 2 ^ 48)
  | some e =>
    let pg := (pageOf d e [pc, 0, 0, 0]).1
    let die := shardDie e [pc, 0, 0, 0]
    let set := if shardLocal s e then
        (match mapPage s core (tagOf s p) 0 d.version e.idx pg die e.root with
         | .ok m => m.pfset
         | .error _ => 0)
      else Config.extWalk e.pkg ((die * 2 ^ 28 + e.root / 4096) * 2 ^ 27 + pg) s.cycle / 4 % 8
    (set, shardStop s (s.core core).view d pc (e.hi.getD 0 0) e.idx)

/-- What a fetch finds of a pc: the place of its word, the profile versions of its page, and the first flat address past
its shard, at which a block ends like at its page's. -/
structure CodeAt where
  place : Place
  profiles : List Nat
  stop : Nat := 2 ^ 48
deriving DecidableEq, Repr

/-- Where the word at a virtual pc lies, and the profile versions of its page. Partition 0 has every profile (R42). A pc in
a local window or past them fetches nothing: cause 0x15, which R17 gives for an address outside the windows' limits and the
spec gives no fetch inside them. A poisoned profile-set entry is cause 0x19, as a poisoned descriptor beside it in the table
is (14 R292) (DESIGN CHOICE, log 74). -/
def codePlace (s : State) (core : Nat) (pc : Nat) : Except Trap CodeAt :=
  let p := partOf s core
  let t := flatTrap 0x15 pc
  if 0xF00000000000 ≤ pc then .error t
  else if p = 0 then
    match flat0 pc with
    | some (d, a) => .ok { place := { store := .hbm d, addr := a }, profiles := [1, 1, 1, 1, 1] }
    | none => .error { t with cause := 0x13 }
  else
    match elemPlace s core p (tagOf s p) (coreDesc s core 0) 0 [pc, 0, 0, 0] .fetch t with
    | .error e => .error e
    | .ok pl =>
      let pg := codePage s core p pc
      match devPoison s none (profileAt s p pg.1) 16 with
      | some l => .error { t with cause := 0x19, errAt := some l }
      | none => .ok { place := pl, profiles := profileSet s p pg.1, stop := pg.2 }

/-- One word as the partition reads it; another package's words are free values. -/
def codeWord (s : State) (w : Who) (st : Store) (a : Nat) : Word := BitVec.ofNat 64 (leNat (readAlong s w .home st a 8))

/-- The words of a block from address `a` of an array on: to its last word, the end of the page, the end of its shard
(`left` bytes on), a poisoned line, or the word before a block head, which a thread reaches by a transfer (R44, R53)
(DESIGN CHOICE, log 66). `first` is set at the block's own first word. Free words are taken `8` bytes a time. -/
def blockWords (s : State) (w : Who) (st : Store) : Nat → Bool → Nat → Nat → List Word
  | 0, _, _, _ => []
  | n + 1, first, a, left =>
    let at_ := fun i => codeWord { s with fresh := s.fresh + i } w st (a + i)
    let x := at_ 0
    let k := wordLen x
    let room := (min (4096 - a % 4096) left) / 8
    if (poisonIn s w st a (8 * min k (max 1 room))).isSome || (!first && (isHead x || room == 0)) then []
    else
      let ws := x :: (List.range (min k room - 1)).map fun i => at_ (8 * (i + 1))
      if endsBlock x || room ≤ k then ws
      else ws ++ blockWords { s with fresh := s.fresh + 8 * k } w st n false (a + 8 * k) (left - 8 * k)

/-- The memory port is asked for the lines of a block of up to 4 KiB, in requests of up to 2 KiB (21 R340). -/
def askLines (s : State) (w : Who) (st : Store) (a n : Nat) : State :=
  (List.range ((a + n - 1) / 2048 + 1 - a / 2048)).foldl (fun s i =>
    let lo := max a ((a / 2048 + i) * 2048)
    readPort s w st lo (min (a + n) ((a / 2048 + i + 1) * 2048) - lo)) s

/-- The word at a tenant's pc that two granules share, as a block of its own: its bytes are gathered (10 R179). -/
def splitWord (s : State) (core pc : Nat) (w : Who) : Except Trap (List Word) :=
  match flatLocs s (2 * core) pc 8 8 .fetch with
  | .error t => .error t
  | .ok ls =>
    match ls.findSome? fun l => poisonIn s w l.1.store l.1.addr (l.2 / 8) with
    | some k => .error (flatTrap (poisonCause k) pc)
    | none =>
      .ok [BitVec.ofNat 64 (joinVals ls (ls.map fun l => leNat (readAlong s w .home l.1.store l.1.addr (l.2 / 8))))]

/-- The words of the block at `pc`, whose place has been found. -/
def blockAtPc (s : State) (core pc : Nat) (w : Who) (at_ : CodeAt) : Except Trap (List Word) :=
  if flatSplit s (2 * core) pc 8 then splitWord s core pc w
  else
    let ws := blockWords s w at_.place.store 512 true at_.place.addr (at_.stop - pc)
    if ws.isEmpty then
      .error (flatTrap (match poisonIn s w at_.place.store at_.place.addr 64 with | some k => poisonCause k | none => 0x19) pc)
    else .ok ws

/-- The block at `pc` for a core: from the translation cache under its key, or translated now (R43, R44) (DESIGN CHOICE, log 66). -/
def fetchBlock (s : State) (core pc : Nat) : Except Trap (State × Block) :=
  match codePlace s core pc with
  | .error t => .error t
  | .ok at_ =>
    let p := partOf s core
    let die := dieOf core
    let g := (genAt s (.blocks die) p).toNat
    match (s.die die).tcache.find? fun b => b.part == p && b.gen == g && b.addr == pc && b.profiles == at_.profiles with
    | some b => .ok (s, b)
    | none =>
      let w : Who := { tag := tagOf s p, raw := isSvc core && (s.die die).raw }
      let st := at_.place.store
      let a := at_.place.addr
      match blockAtPc s core pc w at_ with
      | .error t => .error t
      | .ok ws =>
        let n := 8 * ws.length
        let b : Block := { part := p, gen := g, addr := pc, profiles := at_.profiles, words := ws, page := (storeDie st * 2 ^ 40 + a) / 4096 }
        let s1 := askLines (touchFrame (useFresh (askFlat s (2 * core) pc) w st a n) die at_.place) w st a n
        .ok (s1.setDie die { s1.die die with tcache := (s1.die die).tcache ++ [b] }, b)

/-- The word lies in the block. -/
def Block.holds (b : Block) (pc : Nat) : Bool := decide (b.addr ≤ pc) && decide (pc < b.addr + 8 * b.words.length)

/-- The words at the thread's pc, from the block it is in or from a new one. -/
def fetchWords (s : State) (tid : Nat) : Except Trap (State × Block × List Word) :=
  let pc := (s.thread tid).pc.toNat
  let found : Option Block := match (s.thread tid).blk with
    | some b => if b.holds pc then some b else none
    | none => none
  match found with
  | some b => .ok (s, b, b.words.drop ((pc - b.addr) / 8))
  | none =>
    match fetchBlock s (coreOf tid) pc with
    | .error t => .error t
    | .ok (s1, b) => .ok (s1.setThread tid { s1.thread tid with blk := some b }, b, b.words)

/-- A word of major 0x6 that no loop body may hold (R56). -/
def bodyForbids (w : Word) : Bool :=
  let maj := (w.extractLsb' 60 4).toNat
  let min := (w.extractLsb' 52 8).toNat
  (maj == 6 && [0, 1, 2, 3, 4, 5, 6, 7, 9].contains min) || (maj == 0xE && min == 0 && w.getLsbD 15)

/-- The place rules of R56 and R234: stages, loop bodies, `lend`, `lidx` (DEDUCED, log 19). -/
def placeOk (t : Thread) (w : Word) : Bool :=
  let stg := (w.extractLsb' 49 3).toNat
  let isLend := (w.extractLsb' 52 12).toNat == 0x608
  let isLidx := (w.extractLsb' 52 12).toNat == 0x511
  match t.loop with
  | none => stg == 0 && !isLend && !isLidx
  | some l =>
    decide (stg < l.stages) && !bodyForbids w && (!isLend || t.pc == l.lendPc)
      && (!isLidx || decide ((w.extractLsb' 0 3).toNat < l.stages))

/-- The profiles of the thread's page declare the encoding (R29, R42) (DEDUCED, log 19). -/
def declared (b : Block) (w : Word) : Bool :=
  profileOf w == 0 || decide (1 ≤ b.profiles.getD (profileOf w - 1) 0)

/-- The instruction at a thread's pc, in the state with its block fetched; or the cause of reaching it (R72) (DEDUCED, log 19). -/
def fetchInstr (s : State) (tid : Nat) : Except Trap (State × Instr) :=
  match fetchWords s tid with
  | .error t => .error t
  | .ok (s1, b, ws) =>
    let t := s1.thread tid
    match decode ws with
    | .error _ => .error (wordTrap t 1)
    | .ok i =>
      let w := ws.headD 0
      if assigned w && !placeOk t w then .error (wordTrap t 1)
      else if assigned w && !declared b w then .error (wordTrap t 5)
      else .ok (s1, i)

/-! ## Running threads -/

/-- The thread may run now: its firmware runs, its partition is not being removed, its group is live. -/
def mayRun (s : State) (tid : Nat) : Bool :=
  let c := coreOf tid
  let st := (s.thread tid).status
  let up := match st with
    | .running | .waiting _ => true
    | _ => false
  up && (if isSvc c then s.firmware == .running
    else (s.group (groupOf c)).live.isSome && (s.part (partOf s c)).removal.isNone)

/-- The wait ends by a step of its own, not by running the instruction again. -/
def Wait.byEvent : Wait → Bool
  | .amo _ => true
  | _ => false

/-- An atomic or an increment that acquires has been issued, or an sc access performed: the thread is not at a boundary (10 R200,
R204). -/
def Wait.midway : Wait → Bool
  | .amo _ | .amoDone _ _ | .after _ _ _ _ | .performed _ => true
  | _ => false

/-- The thread stands at an instruction boundary. -/
def atBoundary (t : Thread) : Bool :=
  match t.status with
  | .waiting w => !w.midway
  | _ => true

/-- The other context of a group is one of an open partition. -/
def shadowOpen (s : State) (p g : Nat) : Bool :=
  match (s.group g).shadow with
  | some c => c.part != p && (s.part c.part).isOpen
  | none => false

/-- Every group the partition owns holds an open partition in its shadow bank (11 R228). -/
def mayExchange (s : State) (p : Nat) : Bool := (ownedGroups s p).all (shadowOpen s p)

/-- The launch is pending at a tick: dispatch has not chosen it, or it was chosen and could not start in the tick after, since
its partition was being stopped (11 R214, R215, R228) (DEDUCED, log 37). -/
def Launch.pendingAt (l : Launch) (tick : Nat) : Bool :=
  match l.status with
  | .pending => true
  | .chosen t => decide (t + 1 < tick)
  | .running => false

/-- A live partition of SLICE.LEN 0 outside a slice runs no launch, and open partitions wait in its shadow banks (R228) (DEDUCED, log 45). -/
def zeroDue (s : State) (p : Nat) : Bool :=
  let q := s.part p
  p != 0 && liveAll s p && q.sliceLen == 0 && q.slice.isNone && !q.resume && q.launches.all (·.pendingAt s.tick)
    && mayExchange s p

/-- An instruction's bits stored where the service thread of die 0 fetches next, the firmware running: what a firmware
load leaves (14 R296) (DESIGN CHOICE, log 9). -/
def placeWord (s : State) (nbits w : Nat) : State :=
  let tid := svcThread 0
  let t := s.thread tid
  let pc := match flat0 t.pc.toNat with
    | some _ => t.pc
    | none => 0
  let s1 := { s with agenda := [], cur := tid, lastSource := 0, firmware := .running }
  let s2 := s1.setThread tid { t with status := .running, tag := tagOf s 0, pc, pend := [], stepMode := .none, soft := false, hard := false, loop := none, blk := none }
  match flat0 pc.toNat with
  | none => s2
  | some (d, a) =>
    let m := (s2.die d).hbm
    let cells := cellsOf a ((tableWords nbits w).flatMap wordBytes)
    let who : Who := { tag := tagOf s 0 }
    let m' := (unitsOf (.hbm d) cells).foldl (fun m u =>
      (writeUnit who (.hbm d) m u (cells.filter fun c => unitOf (.hbm d) c.addr == u)).setPoison u none) m
    s2.setDie d { s2.die d with hbm := m', tcache := [] }

end Sys2Proof.Machine
end

