-- ==== Sys2Proof/Machine/Scalar.lean ====
section
/-! DEFINITION. Scalar and immediate instructions (06 R93-R107): majors 0x1 and 0x3. -/

namespace Sys2Proof.Machine

open Sys2Proof

/-- The operand fields a format-A word uses. -/
def fieldsA (x : FmtA) (n : Nat) : List OpField := [x.opa, x.opb, x.opc].take n

/-- A scalar instruction of `n` scalar operands: one scalar appended (R94). -/
def scalarOp (s : State) (h : Hdr) (ops : List OpField) (f : List Word → Word × Flags) : State :=
  ofThread s (onThread s.th h 1 (getOps s.th (ops.map fun o => (Need.s, o))) [.s 0]
    fun vs => let r := f (vs.map (·.word)); ([.s r.1], r.2))

/-- An instruction that appends nothing and updates its thread when enabled. -/
def updOp (s : State) (h : Hdr) (ops : List (Need × OpField)) (f : List Val → Thread → Thread) : State :=
  let t := s.th
  ofThread s (match onThread t h 1 (getOps t ops) [] fun _ => ([], 0) with
    | .error c => .error c
    | .ok t1 =>
      if enabled t h then .ok (f ((getOps t ops).toOption.getD []) t1) else .ok t1)

/-- The operands as exact values of the word's type, modified (R49, R96). -/
def numsA (x : FmtA) (ws : List Word) : List Num := (fieldsA x ws.length).zipWith (fun f w => scalarNum (tyA x) f w) ws

/-- A scalar arithmetic instruction: Finish of an exact value (R94). -/
def scalarNumOp (s : State) (h : Hdr) (x : FmtA) (n : Nat) (f : List Num → Num × Flags) : State :=
  scalarOp s h (fieldsA x n) fun ws =>
    let r := f (numsA x ws)
    let y := finish (tyA x) x.clp.toNat (sclOf x) r.1
    (scalarOf (tyA x) y.1, r.2 ||| y.2)

/-- A scalar instruction on the low bits of its operands (R96). -/
def scalarBits (s : State) (h : Hdr) (x : FmtA) (n : Nat) (f : Nat → List Word → Nat) : State :=
  scalarOp s h (fieldsA x n) fun ws => (scalarOf (tyA x) (f (tyA x).width ws), 0)

def num0 (l : List Num) : Num := l.getD 0 (.fin false 0 1)
def num1 (l : List Num) : Num := l.getD 1 (.fin false 0 1)
def num2 (l : List Num) : Num := l.getD 2 (.fin false 0 1)
def word0 (l : List Word) : Word := l.getD 0 0
def word1 (l : List Word) : Word := l.getD 1 0
def word2 (l : List Word) : Word := l.getD 2 0

def execAdd (h : Hdr) (x : FmtA) (s : State) : Out := .next (scalarNumOp s h x 2 fun l => Num.add (num0 l) (num1 l))
def execSub (h : Hdr) (x : FmtA) (s : State) : Out := .next (scalarNumOp s h x 2 fun l => Num.add (num0 l) (num1 l).neg)
def execMul (h : Hdr) (x : FmtA) (s : State) : Out := .next (scalarNumOp s h x 2 fun l => Num.mul (num0 l) (num1 l))
/-- R97: the high half of the exact product, rounded toward −∞. -/
def mulhNum (w : Nat) (a b : Num) : Num × Flags := (Num.ofInt ((a.sn * b.sn) / (2 ^ w : Nat)), 0)
def execMulh (h : Hdr) (x : FmtA) (s : State) : Out :=
  .next (scalarNumOp s h x 2 fun l => mulhNum (tyA x).width (num0 l) (num1 l))
def execDiv (h : Hdr) (x : FmtA) (s : State) : Out := .next (scalarNumOp s h x 2 fun l => divNum (tyA x) (num0 l) (num1 l))
def execRem (h : Hdr) (x : FmtA) (s : State) : Out :=
  .next (scalarNumOp s h x 2 fun l => (Num.ofInt (remInt (num0 l).sn (num1 l).sn), 0))
def execMad (h : Hdr) (x : FmtA) (s : State) : Out := .next (scalarNumOp s h x 3 fun l => Num.fma (num0 l) (num1 l) (num2 l))
def execAnd (h : Hdr) (x : FmtA) (s : State) : Out :=
  .next (scalarBits s h x 2 fun _ l => (word0 l &&& word1 l).toNat)
def execOr (h : Hdr) (x : FmtA) (s : State) : Out :=
  .next (scalarBits s h x 2 fun _ l => (word0 l ||| word1 l).toNat)
def execXor (h : Hdr) (x : FmtA) (s : State) : Out :=
  .next (scalarBits s h x 2 fun _ l => (word0 l ^^^ word1 l).toNat)
def execAndn (h : Hdr) (x : FmtA) (s : State) : Out :=
  .next (scalarBits s h x 2 fun _ l => (word0 l &&& ~~~(word1 l)).toNat)
def execShl (h : Hdr) (x : FmtA) (s : State) : Out :=
  .next (scalarBits s h x 2 fun w l => shlBits w (word0 l).toNat (word1 l).toNat)
def execShr (h : Hdr) (x : FmtA) (s : State) : Out :=
  .next (scalarBits s h x 2 fun w l => shrBits w (word0 l).toNat (word1 l).toNat)
def execSar (h : Hdr) (x : FmtA) (s : State) : Out :=
  .next (scalarBits s h x 2 fun w l => sarBits w (word0 l).toNat (word1 l).toNat)
def execRotl (h : Hdr) (x : FmtA) (s : State) : Out :=
  .next (scalarBits s h x 2 fun w l => rotlBits w (word0 l).toNat (word1 l).toNat)
def execClz (h : Hdr) (x : FmtA) (s : State) : Out := .next (scalarBits s h x 1 fun w l => clzBits w (word0 l).toNat)
def execCtz (h : Hdr) (x : FmtA) (s : State) : Out := .next (scalarBits s h x 1 fun w l => ctzBits w (word0 l).toNat)
def execPopc (h : Hdr) (x : FmtA) (s : State) : Out := .next (scalarBits s h x 1 fun w l => popBits w (word0 l).toNat)
def execMin (h : Hdr) (x : FmtA) (s : State) : Out := .next (scalarNumOp s h x 2 fun l => minNum (num0 l) (num1 l))
def execMax (h : Hdr) (x : FmtA) (s : State) : Out := .next (scalarNumOp s h x 2 fun l => maxNum (num0 l) (num1 l))
/-- R100: an i64, whatever the type. -/
def execCmp3 (h : Hdr) (x : FmtA) (s : State) : Out :=
  .next (scalarOp s h (fieldsA x 2) fun ws =>
    let l := numsA x ws
    (BitVec.ofInt 64 (cmpNum (num0 l) (num1 l)), flagIf ((num0 l).isSig || (num1 l).isSig) fINV))
/-- R101: bits move unchanged. -/
def execSel (h : Hdr) (x : FmtA) (s : State) : Out :=
  .next (scalarBits s h x 3 fun w l => if (word2 l).toNat % 2 ^ w ≠ 0 then (word0 l).toNat else (word1 l).toNat)

/-- `a` extended to 64 bits as R76 writes the type. -/
def extendTo64 (t : Ty) (w : Word) : Nat := (scalarOf t w.toNat).toNat
/-- R102, `bfx`: bit `lsb + j` of the extended value, or the fill beyond bit 63. -/
def bfxBits (t : Ty) (a ctl : Word) : Nat :=
  let lsb := ctl.toNat % 64
  let len := ctl.toNat / 2 ^ 8 % 128
  if len = 0 then 0
  else
    let v := extendTo64 t a
    let wide := if Ty.isSigned t ∧ v.testBit 63 then v + (2 ^ 256 - 2 ^ 64) else v
    let f := wide / 2 ^ lsb % 2 ^ len
    if Ty.isSigned t then wrapBits 64 (signedOf len f) else f % 2 ^ 64
/-- R102, `bfi`. -/
def bfiBits (w : Nat) (a b ctl : Word) : Nat :=
  let lsb := ctl.toNat % 64
  let len := ctl.toNat / 2 ^ 8 % 128
  let mask := (2 ^ len - 1) * 2 ^ lsb % 2 ^ w
  let av := a.toNat % 2 ^ w
  (av - (av &&& mask)) + (b.toNat * 2 ^ lsb % 2 ^ w &&& mask)
def execBfx (h : Hdr) (x : FmtA) (s : State) : Out :=
  .next (scalarBits s h x 2 fun _ l => bfxBits (tyA x) (word0 l) (word1 l))
def execBfi (h : Hdr) (x : FmtA) (s : State) : Out :=
  .next (scalarBits s h x 3 fun w l => bfiBits w (word0 l) (word1 l) (word2 l))

/-- R103: the bit network of a pattern. -/
def bitNet (pat : BitVec 512) (a : Word) : Word :=
  BitVec.ofNat 64 ((List.range 64).foldl (fun acc j =>
    let b := (pat.extractLsb' (8 * j) 8).toNat
    let bit := if b ≥ 128 then false else (a.getLsbD (b % 64) != decide (b / 64 % 2 = 1))
    if bit then acc + 2 ^ j else acc) 0)
/-- A pattern as the thread's tenancy reads it (R103, 11 R215). -/
def patternOf (s : State) (n : Nat) : BitVec 512 :=
  let p := tget (s.core (coreOf s.cur)).patterns n {}
  if sees s (.core (coreOf s.cur)) (whoOf s s.cur) p.tag then p.bits else 0
def execBnet (h : Hdr) (x : FmtA) (s : State) : Out :=
  .next (scalarOp s h [x.opa] fun ws => (bitNet (patternOf s x.typ.toNat) (word0 ws), 0))

/-- R104. -/
def execCvt (h : Hdr) (x : FmtA) (s : State) : Out :=
  .next (scalarOp s h [x.opa] fun ws =>
    let r := convert (tyA x) x.clp.toNat (sclOf x) (scalarNum (tyField x.opb) x.opa (word0 ws))
    (scalarOf (tyA x) r.1, r.2))
def execSqrt (h : Hdr) (x : FmtA) (s : State) : Out := .next (scalarNumOp s h x 1 fun l => numSqrt (num0 l))
/-- R105. -/
def execLea (h : Hdr) (x : FmtA) (s : State) : Out :=
  .next (scalarOp s h (fieldsA x 2) fun ws =>
    (word0 ws + word1 ws * BitVec.ofNat 64 (if (tyA x).width = 64 then 8 else 4), 0))
/-- A value as an arithmetic result: a signalling NaN raises invalid (R106). -/
def movNum (a : Num) : Num × Flags := (if a.isNan then .nan false else a, flagIf a.isSig fINV)
def execMov (h : Hdr) (x : FmtA) (s : State) : Out := .next (scalarNumOp s h x 1 fun l => movNum (num0 l))

/-! ## Immediates (R107) -/

/-- IMM32 sign-extended and zero-extended. -/
def simm (x : FmtI) : Word := x.imm.signExtend 64
def uimm (x : FmtI) : Word := x.imm.zeroExtend 64
/-- An immediate instruction with a source. -/
def immOp (s : State) (h : Hdr) (x : FmtI) (f : Word → Word) : State := scalarOp s h [x.opa] fun ws => (f (word0 ws), 0)

def execLi (h : Hdr) (x : FmtI) (s : State) : Out := .next (scalarOp s h [] fun _ => (simm x, 0))
def execLih (h : Hdr) (x : FmtI) (s : State) : Out := .next (immOp s h x fun a => (a <<< 32) ||| uimm x)
def execAddi (h : Hdr) (x : FmtI) (s : State) : Out := .next (immOp s h x fun a => a + simm x)
def execAndi (h : Hdr) (x : FmtI) (s : State) : Out := .next (immOp s h x fun a => a &&& simm x)
def execOri (h : Hdr) (x : FmtI) (s : State) : Out := .next (immOp s h x fun a => a ||| uimm x)
def execXori (h : Hdr) (x : FmtI) (s : State) : Out := .next (immOp s h x fun a => a ^^^ uimm x)
def execShli (h : Hdr) (x : FmtI) (s : State) : Out :=
  .next (immOp s h x fun a => BitVec.ofNat 64 (shlBits 64 a.toNat x.imm.toNat))
def execShri (h : Hdr) (x : FmtI) (s : State) : Out :=
  .next (immOp s h x fun a => BitVec.ofNat 64 (shrBits 64 a.toNat x.imm.toNat))
def execSari (h : Hdr) (x : FmtI) (s : State) : Out :=
  .next (immOp s h x fun a => BitVec.ofNat 64 (sarBits 64 a.toNat x.imm.toNat))
def execLf (h : Hdr) (x : FmtI) (s : State) : Out := .next (scalarOp s h [] fun _ => (uimm x, 0))

end Sys2Proof.Machine
end

