-- ==== Sys2Proof/Machine/StateInstr.lean ====
section
/-! DEFINITION. Slots, runs, predicates and control registers (12 R236-R241; 15 R299, R310): major 0x5 but for `bnld`,
`tdset`, `tdget` and `lidx`. -/

namespace Sys2Proof.Machine

open Sys2Proof

/-! ## Slots (R236) -/

/-- The operand field that reads slot `n`. -/
def slotField (n : Nat) : OpField := BitVec.ofNat 9 (64 + n % 64)

def execSget (h : Hdr) (x : FmtS) (s : State) : Out :=
  .next (ofThread s (onThread s.th h 1 (getOps s.th [(.s, slotField x.aux.toNat)]) [.s 0] fun vs => (vs, 0)))
def execVget (h : Hdr) (x : FmtS) (s : State) : Out :=
  .next (ofThread s (onThread s.th h 1 (getOps s.th [(.v, slotField x.aux.toNat)]) [.v 0] fun vs => (vs, 0)))
/-- Write a scalar slot (DESIGN CHOICE, log 64). -/
def Thread.putS (t : Thread) (n : Nat) (w : Word) : Thread :=
  { t with sslots := tput 0 t.sslots n w, lost := t.lost.filter (· != .sslot n) }
/-- Write a vector slot. -/
def Thread.putV (t : Thread) (n : Nat) (x : Vec) : Thread :=
  { t with vslots := tput 0 t.vslots n x, lost := t.lost.filter (· != .vslot n) }
def execSput (h : Hdr) (x : FmtS) (s : State) : Out :=
  .next (updOp s h [(.s, x.opa)] fun vs t => t.putS x.dst.toNat (arg vs 0).word)
def execVput (h : Hdr) (x : FmtS) (s : State) : Out :=
  .next (updOp s h [(.v, x.opa)] fun vs t => t.putV x.dst.toNat ((arg vs 0).vec 64))
/-- `keep`: the run of AUX16[3:0] positions whose newest is OPA's. -/
def execKeep (h : Hdr) (x : FmtS) (s : State) : Out :=
  let run := getRun s.th x.opa x.aux.toNat
  let zeros := match run with
    | .ok vs => vs.map Val.zero
    | .error _ => []
  .next (ofThread s (onThread s.th h 1 run zeros fun vs => (vs, 0)))

/-! ## Predicates (R237, R238) -/

/-- Write a predicate in full (DESIGN CHOICE, log 64). -/
def Thread.putP (t : Thread) (n : Nat) (p : Pred) : Thread :=
  { t with preds := tput 0 t.preds n p, lost := t.lost.filter (· != .pred n) }

/-- Condition codes of `pcmp` on exact values, and INV for a signalling NaN. -/
def cmpCond (c : Nat) (a b : Num) : Bool × Flags :=
  let nan := a.isNan || b.isNan
  let lt := Num.lt a b
  let gt := Num.lt b a
  let r := match c with
    | 0 => !nan && !lt && !gt
    | 1 => nan || lt || gt
    | 2 => !nan && lt
    | 3 => !nan && !gt
    | 4 => !nan && gt
    | 5 => !nan && !lt
    | 6 => nan
    | _ => !nan
  (r, flagIf (a.isSig || b.isSig) fINV)

/-- The predicate a lane-wise `pcmp` leaves: enabled lanes take the result, disabled lanes stay, bits past the lanes
become 0. -/
def cmpLanes (t : Thread) (h : Hdr) (ty : Ty) (c : Nat) (old : Pred) (a b : Vec) : Pred × Flags :=
  let w := ty.width
  let r := (List.range (lanesOf w)).map fun i =>
    if enabledAt t h i then cmpCond c (numOf ty (lane w a i)) (numOf ty (lane w b i)) else (old.getLsbD i, 0)
  (BitVec.ofNat 1024 ((r.map (·.1)).foldr (fun b n => (if b then 1 else 0) + 2 * n) 0), orFlags (r.map (·.2)))

/-- Every bit of a predicate alike. -/
def predAll (b : Bool) : Pred := if b then BitVec.allOnes 1024 else 0

/-- The thread after an enabled `pcmp` (R237) (DEDUCED, log 24, DESIGN CHOICE, log 64). -/
def pcmpThread (t : Thread) (h : Hdr) (x : FmtS) (a b : Val) : Thread :=
  let ty := (tyOf (x.aux.extractLsb' 4 7)).getD .i64
  let c := (x.aux.extractLsb' 0 4).toNat
  let n := x.dst.toNat
  if a.isVec || b.isVec then
    let r := cmpLanes t h ty c (tget t.preds n 0) (a.vec ty.width) (b.vec ty.width)
    let full := (List.range (lanesOf ty.width)).all fun i => enabledAt t h i
    let t1 := finishThread t [] r.2
    if full then t1.putP n r.1 else { t1 with preds := tput 0 t1.preds n r.1 }
  else
    let r := cmpCond c (numOf ty (a.word.toNat % 2 ^ ty.width)) (numOf ty (b.word.toNat % 2 ^ ty.width))
    (finishThread t [] r.2).putP n (predAll r.1)

/-- DEDUCED, log 24. -/
def execPcmp (h : Hdr) (x : FmtS) (s : State) : Out :=
  let t := s.th
  let ty := (tyOf (x.aux.extractLsb' 4 7)).getD .i64
  .next (match getOps t [(.e, x.opa), (.e, x.opb)] with
    | .error c => raise s (wordTrap t c)
    | .ok vs =>
      let vec := vs.any (·.isVec)
      if !vec && decide (ty ∉ tZF32) then raise s (wordTrap t 1)
      else if guardLost t h then raise s { cause := 0x19 }
      else if stageAct t h.stg.toNat != .run || (!vec && !enabled t h) then finishIn s []
      else if vs.any (·.isLost) then raise s { cause := 0x19 }
      else s.setTh (pcmpThread t h x (arg vs 0) (arg vs 1)))

/-- A predicate instruction: `p` is written with a function of the sources read. Guard bit 0 governs it. -/
def predOp (s : State) (h : Hdr) (dst : Nat) (srcs : List Nat) (f : List Pred → Pred) : State :=
  effectOp s h (.ok []) [] fun _ =>
    if srcs.any fun n => s.th.lost.contains (.pred n) then raise s { cause := 0x19 }
    else s.setTh ((finishThread s.th [] 0).putP dst (f (srcs.map fun n => tget s.th.preds n 0)))

/-- The first and second source of AUX16. -/
def predSrc1 (x : FmtS) : Nat := (x.aux.extractLsb' 0 7).toNat
def predSrc2 (x : FmtS) : Nat := (x.aux.extractLsb' 8 7).toNat
def pred0 (l : List Pred) : Pred := l.getD 0 0
def pred1 (l : List Pred) : Pred := l.getD 1 0

def execPset (h : Hdr) (x : FmtS) (s : State) : Out :=
  .next (predOp s h x.dst.toNat [] fun _ => predAll (x.aux.getLsbD 0))
def execPand (h : Hdr) (x : FmtS) (s : State) : Out :=
  .next (predOp s h x.dst.toNat [predSrc1 x, predSrc2 x] fun l => pred0 l &&& pred1 l)
def execPor (h : Hdr) (x : FmtS) (s : State) : Out :=
  .next (predOp s h x.dst.toNat [predSrc1 x, predSrc2 x] fun l => pred0 l ||| pred1 l)
def execPxor (h : Hdr) (x : FmtS) (s : State) : Out :=
  .next (predOp s h x.dst.toNat [predSrc1 x, predSrc2 x] fun l => pred0 l ^^^ pred1 l)
def execPnot (h : Hdr) (x : FmtS) (s : State) : Out :=
  .next (predOp s h x.dst.toNat [predSrc1 x] fun l => ~~~(pred0 l))
def execPmov (h : Hdr) (x : FmtS) (s : State) : Out :=
  .next (predOp s h x.dst.toNat [predSrc1 x] fun l => pred0 l)
def execPany (h : Hdr) (x : FmtS) (s : State) : Out :=
  .next (effectOp s h (.ok []) [.s 0] fun _ =>
    if s.th.lost.contains (.pred (predSrc1 x)) then raise s { cause := 0x19 }
    else finishIn s [.s (if tget s.th.preds (predSrc1 x) 0 = 0 then 0 else 1)])

/-! ## Control registers (R239, R299, R310) -/

/-- What a `csrr` or `csrw` reaches: a partition, a core and a thread (R299). -/
structure Reach where
  part : Nat
  core : Nat
  tid : Nat
deriving DecidableEq, Repr

/-- A field of TARGET. -/
def targetPart (w : Word) : Nat := (w.extractLsb' 0 4).toNat
def targetCore (w : Word) : Nat := (w.extractLsb' 8 6).toNat
def targetThr (w : Word) : Nat := (w.extractLsb' 16 1).toNat
def targetSel (w : Word) : Bool := w.getLsbD 24
/-- RESULT of TARGET set. -/
def setResult (w : Word) (r : Nat) : Word := (w &&& 0xFFFFFFFF0FFFFFFF#64) ||| BitVec.ofNat 64 (r % 16 * 2 ^ 28)

/-- Package core that TARGET names on a die. -/
def targetCoreOf (d : Nat) (w : Word) : Nat := d * 64 + targetCore w

/-- DEDUCED, log 38. -/
def reachOf (s : State) (tid : Nat) : Reach :=
  let c := coreOf tid
  let p := partOf s c
  let w := (s.die (dieOf c)).target
  if p ≠ 0 then { part := p, core := c, tid }
  else if targetSel w then
    { part := targetPart w, core := targetCoreOf (dieOf c) w, tid := 2 * targetCoreOf (dieOf c) w + targetThr w }
  else { part := targetPart w, core := c, tid }

/-- LEASE of a core (07 R138). -/
def leaseWord (s : State) (core : Nat) : Word :=
  let l := (s.core core).lease
  let st := if l.lender.isSome then 3 else if l.tenure then 2 else if l.claim then 1 else 0
  let cyc := if l.tenure then min 4096 (s.cycle - l.since) else 0
  BitVec.ofNat 64 ((l.lender.getD 0) % 64 * 2 ^ 32 + cyc * 2 ^ 16 + l.recs % 32 * 2 ^ 4 + st)

/-- QSTAT of a core (R310). -/
def qstatWord (c : Core) : Word :=
  BitVec.ofNat 64 ((List.range 8).foldl (fun n i =>
    let q := tget c.queues i []
    n + q.length % 32 * 2 ^ (5 * i) + (if q.any (·.status != .ready) then 2 ^ (40 + i) else 0)) 0)

/-- WDOG of a core (11 R229). -/
def wdogWord (w : Wdog) : Word :=
  BitVec.ofNat 64 (w.left % 2 ^ 24 * 2 ^ 40 + w.grace.toNat * 2 ^ 8 + (if w.fired then 2 else 0) + (if w.mode then 1 else 0))

/-- GEN of a partition (R310). -/
def genWord (s : State) (p : Nat) : Word :=
  BitVec.ofNat 64 ((if s.sweeps.any (·.part == p) then 2 ^ 25 else 0) + (if (s.part p).isOpen then 2 ^ 24 else 0)
    + (s.part p).low.toNat * 2 ^ 16 + (tagOf s p).toNat)

/-- 64 event bits of a partition (R310). -/
def evtWord (s : State) (raw : Bool) (p w : Nat) : Word :=
  BitVec.ofNat 64 ((List.range 64).foldl (fun n i =>
    n + (if eventSeen s { tag := tagOf s p, raw } p (64 * w + i) then 2 ^ i else 0)) 0)

/-- The fields of access code RS, which a tenant reads as zero and cannot write. -/
def rsMask (id : Nat) : Word :=
  match id with
  | 0x13 => 0xFF00#64
  | 0x24 => 0xFFFFFF#64
  | 0x25 => 0xFFFF0000#64
  | 0x26 => 0xFFFFFFFF#64
  | 0x27 => 0xFFFF#64
  | 0x40 => 0x01013F0F#64
  | 0x41 => 0xFFFFFFFFFFFF#64
  | _ => 0

/-- A control register in full. `d` is the issuer's die, and `raw` its service core's raw-access mode where that reads (13 R268)
(DEDUCED, log 38). -/
def csrValue (s : State) (d : Nat) (raw : Bool) (r : Reach) (id : Nat) : Word :=
  let p := s.part r.part
  match id with
  | 0x01 => ((s.thread r.tid).fpstat).zeroExtend 64
  | 0x02 => (s.thread r.tid).trapinfo
  | 0x03 => loopst (s.thread r.tid)
  | 0x10 => (s.core r.core).domain
  | 0x11 => leaseWord s r.core
  | 0x12 => qstatWord (s.core r.core)
  | 0x13 => wdogWord (s.core r.core).wdog
  | 0x20 => genWord s r.part
  | 0x21 => BitVec.ofNat 64 (p.tdt % 2 ^ 48)
  | 0x22 => BitVec.ofNat 64 (p.bkbase % 2 ^ 27)
  | 0x23 => BitVec.ofNat 64 (p.bklim % 2 ^ 27)
  | 0x24 => p.sliceLen.zeroExtend 64
  | 0x25 => (p.slipLimit.zeroExtend 64 <<< 16) ||| p.slipCount.zeroExtend 64
  | 0x26 => p.latew.zeroExtend 64
  | 0x27 => p.migsrc.zeroExtend 64
  | 0x28 => evtWord s raw r.part 0
  | 0x29 => evtWord s raw r.part 1
  | 0x2A => evtWord s raw r.part 2
  | 0x2B => evtWord s raw r.part 3
  | 0x40 => (s.die d).target
  | 0x41 => (s.die d).pcfg
  | 0x42 => BitVec.ofNat 64 ((if (s.die d).raw then 4 else 0) + (if s.rawEntered then 2 else 0) + (if s.rawLocked then 1 else 0))
  | _ => 0

/-- `csrr`: a tenant reads RS fields as zero; TARGET is a service core's, so a tenant reads none of it (DEDUCED, log 38). -/
def readCsr (s : State) (tid id : Nat) : Word :=
  let v := csrValue s (dieOf (coreOf tid)) (whoOf s tid).raw (reachOf s tid) id
  if partOf s (coreOf tid) = 0 then v else if id = 0x40 then 0 else v &&& ~~~(rsMask id)

/-- A launch running on a core. -/
def launchOf (s : State) (core : Nat) : Option Launch :=
  match (s.core core).launch with
  | some l => ((s.part (partOf s core)).launches.find? fun x => x.id == l)
  | none => none

/-- Writing 1 to WDOG.FIRED answers the core's cause 0x38 and reloads LEFT (11 R230). -/
def answerWdog (s : State) (core : Nat) : State :=
  let c := s.core core
  let left := match launchOf s core with
    | some l => l.timeout
    | none => c.wdog.left
  if c.wdog.fired then s.setCore core { c with wdog := { c.wdog with fired := false, left } } else s

/-- `csrw`: each field obeys its access code (R7, R239). -/
def writeCsr (s : State) (tid id : Nat) (v : Word) : State :=
  let d := dieOf (coreOf tid)
  let r := reachOf s tid
  let sup := partOf s (coreOf tid) = 0
  let p := s.part r.part
  let rs := fun (s' : State) => if sup then s' else s
  match id with
  | 0x01 => let t := s.thread r.tid
            s.setThread r.tid { t with fpstat := t.fpstat &&& ~~~(v.extractLsb' 0 6) }
  | 0x13 =>
    let s1 := if v.getLsbD 1 then answerWdog s r.core else s
    let c := s1.core r.core
    if sup then s1.setCore r.core { c with wdog := { c.wdog with grace := v.extractLsb' 8 8 } } else s1
  | 0x24 => rs (s.setPart r.part { p with sliceLen := v.extractLsb' 0 24 })
  | 0x25 => s.setPart r.part { p with slipCount := v.extractLsb' 0 16,
                                      slipLimit := if sup then v.extractLsb' 16 16 else p.slipLimit }
  | 0x26 => rs (s.setPart r.part { p with latew := v.extractLsb' 0 32 })
  | 0x27 => rs (s.setPart r.part { p with migsrc := v.extractLsb' 0 16 })
  | 0x40 => rs (s.setDie d { s.die d with target := ((s.die d).target &&& ~~~(rsMask 0x40)) ||| (v &&& rsMask 0x40) })
  | 0x41 => rs (s.setDie d { s.die d with pcfg := v &&& rsMask 0x41 })
  | _ => s

def execCsrr (h : Hdr) (x : FmtS) (s : State) : Out :=
  .next (ofThread s (onThread s.th h 1 (.ok []) [.s 0] fun _ => ([.s (readCsr s s.cur x.aux.toNat)], 0)))
def execCsrw (h : Hdr) (x : FmtS) (s : State) : Out :=
  .next (effectOp s h (getOps s.th [(.s, x.opa)]) [] fun vs =>
    holdLoads s fun _ => writeCsr (finishIn s []) s.cur x.aux.toNat (arg vs 0).word)

/-- The answer to a watchdog cause, as the write to WDOG.FIRED makes it (11 R230). -/
def execWdogFiredAnswer (core : Nat) (s : State) : Out := .next (answerWdog s core)
/-- A register written through the current thread. -/
def execRegisterWrite (id : BitVec 16) (v : Word) (s : State) : Out := .next (writeCsr s s.cur id.toNat v)

/-- `gen` (R241). -/
def execGen (h : Hdr) (_x : FmtS) (s : State) : Out :=
  .next (ofThread s (onThread s.th h 1 (.ok []) [.s 0] fun _ =>
    ([.s ((tagOf s (partOf s (coreOf s.cur))).zeroExtend 64)], 0)))

end Sys2Proof.Machine
end

