-- ==== Sys2Proof/Machine/Control.lean ====
section
/-! DEFINITION. Control transfers, block heads, hardware loops, stopping and hints (04 R52-R56; 11 R226; 12 R231-R235,
R242): major 0x6, major 0xE and `lidx`. -/

namespace Sys2Proof.Machine

open Sys2Proof

/-! ## Words at an address -/

/-- The word at an address as the thread would reach it, from its block, the translation cache or memory; or why it cannot be
reached, lost data among the reasons (14 R292). -/
def peekWord (s : State) (tid pc : Nat) : Except Trap Word :=
  let core := coreOf tid
  let own : Option Word := match (s.thread tid).blk with
    | some b => if b.addr ≤ pc then b.words[(pc - b.addr) / 8]? else none
    | none => none
  match own with
  | some w => .ok w
  | none =>
    match codePlace s core pc with
    | .error t => .error t
    | .ok at_ =>
      let p := partOf s core
      match (s.die (dieOf core)).tcache.find? fun b =>
        b.part == p && b.gen == (genAt s (.blocks (dieOf core)) p).toNat && b.addr == pc && b.profiles == at_.profiles with
      | some b => .ok (b.words.headD 0)
      | none => (blockAtPc s core pc { tag := tagOf s p, raw := isSvc core && (s.die (dieOf core)).raw } { at_ with stop := pc + 8 }).map (·.headD 0)

/-- The word a transfer would enter at `pc`: looked up afresh. -/
def targetWord (s : State) (tid pc : Nat) : Except Trap Word :=
  peekWord (s.setThread tid { s.thread tid with blk := none }) tid pc

/-! ## Block heads (R52-R54) -/

/-- The declaration of a block head: arity and kinds, value 0 the oldest. -/
def headOf (w : Word) : Option (Nat × BitVec 8) :=
  if isHead w then some ((w.extractLsb' 8 4).toNat, w.extractLsb' 0 8) else none

/-- Values passed, oldest first, meet a head's declaration. -/
def headMeets (ar : Nat) (kinds : BitVec 8) (vals : List Val) : Bool :=
  vals.length == ar && vals.zipIdx.all fun v => v.1.isVec == kinds.getLsbD v.2

/-- The check of R53 at a target; a word that cannot be read is not checked, and its fetch raises what it meets (DEDUCED, log 22). -/
def headCheck (s : State) (target : Nat) (vals : List Val) : Bool :=
  match targetWord s s.cur target with
  | .error _ => true
  | .ok w =>
    match headOf w with
    | none => true
    | some (ar, kinds) => headMeets ar kinds vals

/-! ## Transfers (R231, R232) -/

/-- The window without the position an operand names, for a target address (R53). -/
def windowBut (t : Thread) (f : OpField) : List Val :=
  if opSlot f then t.window else t.window.eraseIdx (opIdx f)

/-- The `n` newest positions, newest first, or cause 0x03 (DEDUCED, log 22). -/
def passed (l : List Val) (n : Nat) : Except Nat (List Val) := if l.length < n then .error 3 else .ok (l.take n)

/-- A thread enters `target` by a transfer with the window given, newest first. -/
def enter (t : Thread) (target : Word) (window : List Val) : Thread :=
  { finishThread t [] 0 with pc := target, window, blk := none, entered := true }

/-- Operands and passed values; of several causes the lowest. -/
def transferIn (t : Thread) (ops : List (Need × OpField)) (w : List Val) (n : Nat) : Except Nat (List Val × List Val) :=
  match getOps t ops, passed w n with
  | .ok vs, .ok p => .ok (vs, p)
  | .error a, .error b => .error (min a b)
  | .error a, .ok _ => .error a
  | .ok _, .error b => .error b

/-- The shape of a transfer: causes 0x02 and 0x03 first; not enabled, it is not taken and the thread goes on, but for cause 0x04
where `meets`, of its operands and what it passes, says that the head it names does not take that (R55) (DEDUCED, log 22). -/
def transferOp (s : State) (h : Hdr) (ops : List (Need × OpField)) (w : List Val) (n : Nat) (meets : List Val → List Val → Bool)
    (f : List Val → List Val → State) : State :=
  match transferIn s.th ops w n with
  | .error c => raise s (wordTrap s.th c)
  | .ok (vs, p) =>
    if guardLost s.th h then raise s { cause := 0x19 }
    else if !enabled s.th h then (if meets vs p then finishIn s [] else raise s (wordTrap s.th 4))
    else if vs.any (·.isLost) then raise s { cause := 0x19 }
    else f vs p

/-- Cause 0x30 with a code of the device or of the word. -/
def codeTrap (cause code : Nat) : Trap := { cause, info := code, issue := code }

/-- Go to a target with `p` passed, newest first; `frame` saves the caller (R231, R232) (DEDUCED, log 23). -/
def goTo (s : State) (target : Word) (p : List Val) (frame : Bool) : State :=
  let t := s.th
  if !headCheck s target.toNat p.reverse then raise s (wordTrap t 4)
  else if frame then
    if 64 ≤ t.frames.length then raise s (codeTrap 0x30 0xFFFFFF)
    else s.setTh { enter t target p with
      frames := { ret := t.pc + 8, window := t.window, tag := (whoOf s s.cur).tag } :: t.frames }
  else s.setTh (enter t target p)

/-- Target of a relative transfer: PC + 8 × OFF. -/
def relTarget (t : Thread) (x : FmtB) : Word := t.pc + 8 * x.off.signExtend 64

/-- A block head at a relative transfer's target takes the values passed (R53, R55) (DEDUCED, log 22). -/
def relMeets (s : State) (x : FmtB) (_vs p : List Val) : Bool := headCheck s (relTarget s.th x).toNat p.reverse
/-- One at the address that a transfer's operand holds does: a lost or misaligned address names none. -/
def valMeets (s : State) (vs p : List Val) : Bool :=
  (arg vs 0).isLost || (arg vs 0).word.toNat % 8 != 0 || headCheck s (arg vs 0).word.toNat p.reverse
/-- `ret` goes to no block head that is checked. -/
def anyMeets (_vs _p : List Val) : Bool := true

/-- `jmpi` and `calli`: a target that is not a multiple of 8 is cause 0x14. -/
def goIndirect (s : State) (a : Word) (p : List Val) (frame : Bool) : State :=
  if a.toNat % 8 ≠ 0 then raise s (flatTrap 0x14 a.toNat) else goTo s a p frame

def execJmp (h : Hdr) (x : FmtB) (s : State) : Out :=
  .next (transferOp s h [] s.th.window x.nps.toNat (relMeets s x) fun _ p => goTo s (relTarget s.th x) p false)
def execBrt (h : Hdr) (x : FmtB) (s : State) : Out :=
  .next (transferOp s h [(.s, x.opa)] s.th.window x.nps.toNat (relMeets s x) fun vs p =>
    if (arg vs 0).word = 0 then finishIn s [] else goTo s (relTarget s.th x) p false)
def execBrf (h : Hdr) (x : FmtB) (s : State) : Out :=
  .next (transferOp s h [(.s, x.opa)] s.th.window x.nps.toNat (relMeets s x) fun vs p =>
    if (arg vs 0).word = 0 then goTo s (relTarget s.th x) p false else finishIn s [])
def execCall (h : Hdr) (x : FmtB) (s : State) : Out :=
  .next (transferOp s h [] s.th.window x.nps.toNat (relMeets s x) fun _ p => goTo s (relTarget s.th x) p true)
/-- `ret`: the frame's window followed by the values returned; no head check (DEDUCED, log 25). -/
def execRet (h : Hdr) (x : FmtB) (s : State) : Out :=
  .next (transferOp s h [] s.th.window x.nps.toNat anyMeets fun _ p =>
    match s.th.frames with
    | [] => raise s (codeTrap 0x30 0xFFFFFE)
    | f :: fs =>
      if f.lost then raise s { cause := 0x19 }
      else s.setTh { enter s.th f.ret ((p ++ f.window).take 64) with frames := fs })
def execJmpi (h : Hdr) (x : FmtB) (s : State) : Out :=
  .next (transferOp s h [(.s, x.opa)] (windowBut s.th x.opa) x.nps.toNat (valMeets s) fun vs p =>
    goIndirect s (arg vs 0).word p false)
def execCalli (h : Hdr) (x : FmtB) (s : State) : Out :=
  .next (transferOp s h [(.s, x.opa)] (windowBut s.th x.opa) x.nps.toNat (valMeets s) fun vs p =>
    goIndirect s (arg vs 0).word p true)

/-! ## Loops (R56, R233, R234, R226) -/

/-- Kinds a word appends, oldest first (true: a vector), under window kinds given newest first. -/
def appendKinds (w : Word) (win : List Bool) : List Bool :=
  let maj := (w.extractLsb' 60 4).toNat
  let min := (w.extractLsb' 52 8).toNat
  let kindOf := fun (f : OpField) => if opSlot f then false else win.getD (opIdx f) false
  let opa := w.extractLsb' 32 9
  let opb := w.extractLsb' 23 9
  let opc := w.extractLsb' 14 9
  let typ := tyOf (w.extractLsb' 0 7)
  let frm := tyOf (w.extractLsb' 23 7)
  let width := fun (t : Option Ty) => (t.map Ty.width).getD 64
  match maj with
  | 1 | 3 => [false]
  | 2 =>
    (match min with
     | 0x15 => List.replicate (width typ / width frm) true
     | 0x16 => [false]
     | 0x1B => [true, true]
     | 0x1D => [true, false]
     | 0x1F => if width typ = 4 then [false, false] else [false]
     | _ => [true])
  | 4 =>
    if min = 7 then []
    else
      let n := if min = 4 then 1 else if min = 3 ∨ min = 5 ∨ min = 6 then 3 else 2
      let v := ([opa, opb, opc].take n).any kindOf
      List.replicate (if min = 5 ∨ min = 6 then 2 else 1) v
  | 5 =>
    (match min with
     | 0x00 | 0x0C | 0x0D | 0x10 | 0x11 | 0x13 => [false]
     | 0x02 => [true]
     | 0x04 => ((win.drop (opIdx opa)).take (w.extractLsb' 0 4).toNat).reverse
     | _ => [])
  | 7 => if min = 0 ∨ min = 1 then [false] else if min = 2 then [true] else []
  | 8 => if min = 0 ∨ min = 3 then [true] else if min = 5 then [false] else []
  | 9 => if min = 1 ∨ min = 2 then [true] else if min = 3 then [false] else []
  | 0xA => if min < 0x0A ∨ min = 0x0E then [false] else []
  | 0xB => if min = 0x02 then [true] else []
  | 0xD => if [0x01, 0x02, 0x03, 0x04, 0x0A, 0x0B].contains min then [false] else []
  | 0xE => if min = 1 then [false] else []
  | _ => []

/-- Kinds one kernel iteration appends, oldest first, and the window kinds after it: `n` bounds the words. -/
def bodyKinds (s : State) (tid : Nat) : Nat → Nat → Nat → List Bool → List Bool × List Bool
  | 0, _, _, win => ([], win)
  | n + 1, a, stop, win =>
    if stop ≤ a then ([], win)
    else
      let w := (peekWord s tid a).toOption.getD 0
      let ks := appendKinds w win
      let r := bodyKinds s tid n (a + 8 * wordLen w) stop ((ks.reverse ++ win).take 64)
      (ks ++ r.1, r.2)

/-- Window kinds after `k` kernel iterations. -/
def loopKinds (s : State) (tid a stop : Nat) : Nat → List Bool → List Bool
  | 0, win => win
  | k + 1, win => loopKinds s tid a stop k (bodyKinds s tid 4096 a stop win).2

/-- The zeros a skipped loop appends: of the kinds its `lend` would append (R233) (DEDUCED, log 23). -/
def skippedZeros (kinds : List Bool) (m : Nat) : List Val :=
  let ks := kinds.take m
  ((ks ++ List.replicate (m - ks.length) false).reverse).map fun v => if v then .v 0 else .s 0

/-- The `lend` word that a `loop` of offset `off` reaches: its NPS and stage count. The loop asks only for the opcode and
the offset; a reserved value in the word is a cause of the `lend` itself, when it is reached (R56) (DEDUCED, log 23). A word whose
data is lost is no word to judge: the loop reports that (14 R278, R292). -/
def lendAt (s : State) (tid pc : Nat) (off : BitVec 24) : Except Trap (Nat × Nat) :=
  match peekWord s tid pc with
  | .error t => .error (if t.cause = 0x18 ∨ t.cause = 0x19 then t else wordTrap (s.thread tid) 1)
  | .ok w =>
    if w.extractLsb' 52 12 = 0x608#12 ∧ w.extractLsb' 0 24 = -off then
      .ok ((w.extractLsb' 28 4).toNat, (w.extractLsb' 24 3).toNat + 1)
    else .error (wordTrap (s.thread tid) 1)

/-- The first word of [a, stop) whose data is lost; `n` bounds the words. -/
def lostWord (s : State) (tid : Nat) : Nat → Nat → Nat → Option Trap
  | 0, _, _ => none
  | n + 1, a, stop =>
    if stop ≤ a then none
    else
      match peekWord s tid a with
      | .error t => if t.cause = 0x18 ∨ t.cause = 0x19 then some t else none
      | .ok w => lostWord s tid n (a + 8 * wordLen w) stop

/-- `loop` (R233). One that is skipped appends zeros whose kinds its body gives: a body whose data is lost is cause 0x19, as lost data
under a guard is (14 R292) (DESIGN CHOICE, log 103). -/
def execLoop (h : Hdr) (x : FmtB) (s : State) : Out :=
  let t := s.th
  let lend := relTarget t x
  .next (match lendAt s s.cur lend.toNat x.off with
    | .error c => raise s c
    | .ok (m, stages) =>
      match transferIn t [(.s, x.opa)] t.window x.nps.toNat with
      | .error c => raise s (wordTrap t c)
      | .ok (vs, p) =>
        let a := t.pc.toNat + 8
        let kinds := p.map (·.isVec)
        if guardLost t h then raise s { cause := 0x19 }
        else if !enabled t h then
          match lostWord s s.cur 4096 a lend.toNat with
          | some c => raise s c
          | none => s.setTh { finishThread t (skippedZeros (loopKinds s s.cur a lend.toNat (Nat.max 1 m) kinds) m) 0 with pc := lend + 8 }
        else if vs.any (·.isLost) then raise s { cause := 0x19 }
        else
          let trip := (arg vs 0).word.toNat % 2 ^ 32
          let l : LoopState :=
            { loopPc := t.pc + 8, lendPc := lend, trip, stages, k := 0, outer := t.window,
              v := (bodyKinds s s.cur 4096 a lend.toNat kinds).1.length }
          s.setTh { finishThread t [] 0 with pc := if trip = 0 then lend else t.pc + 8, window := p, loop := some l })

/-- Kernel iterations of a loop. -/
def LoopState.kernels (l : LoopState) : Nat := if l.trip = 0 then 0 else l.trip + l.stages - 1

/-- The back edge to kernel iteration `k` (R44, R233). -/
def backEdge (t : Thread) (l : LoopState) (k : Nat) (mode : LoopMode) : Thread :=
  { enter t l.loopPc t.window with loop := some { l with k, mode } }

/-- The end of a drain: the kept window, refill from `j`; a soft stop ends here, unless a cause is to be taken first (R226;
14 R285) (DEDUCED, log 26). -/
def endDrain (t : Thread) (l : LoopState) (j : Nat) (kept vals : List Val) : Thread :=
  let t1 := { backEdge t l j (.refill j vals) with window := kept }
  if t.soft && !causeWaits t1 then { t1 with status := .stopped, soft := false } else t1

/-- The exit of a loop: the outer window followed by the `m` newest positions (R233). -/
def exitLoop (t : Thread) (l : LoopState) (m : Nat) : Thread :=
  { finishThread t [] 0 with window := (t.window.take m ++ l.outer).take 64, loop := none }

/-- `lend` (R233): the end of a kernel iteration (DEDUCED, log 26). -/
def lendThread (t : Thread) (l : LoopState) (m : Nat) : ThreadStep :=
  let k := l.k + 1
  let leave : ThreadStep :=
    if t.window.length < m then .error (wordTrap t 3) else .ok (exitLoop t l m)
  match l.mode with
  | .drain j kept vals =>
    if k + 1 = j + l.stages then .ok (endDrain t l j kept vals) else .ok (backEdge t l k l.mode)
  | .refill j _ =>
    if k + 1 = j + l.stages then
      (if l.kernels ≤ k then leave else .ok (backEdge t l k .normal))
    else .ok (backEdge t l k l.mode)
  | .normal => if l.kernels ≤ k then leave else .ok (backEdge t l k .normal)

def execLend (_h : Hdr) (x : FmtB) (s : State) : Out :=
  let t := s.th
  .next (match t.loop with
    | none => raise s (wordTrap t 1)
    | some l =>
      match lendThread t l x.nps.toNat with
      | .ok t1 => s.setTh t1
      | .error c =>
        raise (s.setTh { t with loop := some { l with k := l.kernels, mode := .normal } }) c)

/-- `lidx s`: k − s, for a stage of the loop (R234). -/
def execLidx (h : Hdr) (x : FmtS) (s : State) : Out :=
  let t := s.th
  let n := (x.aux.extractLsb' 0 3).toNat
  .next (match t.loop with
    | none => raise s (wordTrap t 1)
    | some l =>
      if l.stages ≤ n then raise s (wordTrap t 1)
      else ofThread s (onThread t h 1 (.ok []) [.s 0] fun _ =>
        ([.s (BitVec.ofInt 64 ((l.k : Int) - (n : Int)))], 0)))

/-! ## Soft and hard stops (11 R225, R226) -/

/-- A hard stop at an instruction boundary: a wait is taken as not begun (R225). -/
def stopHard (t : Thread) : Thread :=
  match t.status with
  | .running | .waiting _ => { t with status := .stopped, soft := false, hard := false, blk := none, entered := true }
  | _ => { t with soft := false, hard := false }

/-- A thread stopped keeps what a block head at its pc asks of it: `entered` and `atEntry` stay as they are. -/
def stopThread (t : Thread) : Thread := { stopHard t with entered := t.entered }

/-- The loop is drained too deep to keep (R226) (DEDUCED, log 26). -/
def drainTooDeep (l : LoopState) : Bool := decide (64 < l.v * (l.stages - 1))

/-- A soft stop acts at this boundary (R226) (DEDUCED, log 26). -/
def softStopsHere (t : Thread) : Bool :=
  match t.loop with
  | none => true
  | some l =>
    match l.mode with
    | .normal => drainTooDeep l || (t.pc == l.loopPc && decide (l.k < l.trip))
    | _ => false

/-- A thread with a soft stop asked for reaches a boundary where it acts, with no cause to take there first (14 R285): it stops, or begins its drain (DEDUCED, log 26). -/
def softStop (t : Thread) : Thread :=
  match t.loop with
  | none => stopThread t
  | some l =>
    if drainTooDeep l || l.k = 0 || l.stages = 1 then stopThread t
    else { t with status := .running, loop := some { l with mode := .drain l.k t.window [] } }

/-- The other thread of the core has stopped. -/
def peerStopped (s : State) (tid : Nat) : Bool :=
  match (s.thread (if tid % 2 = 0 then tid + 1 else tid - 1)).status with
  | .running | .waiting _ => false
  | _ => true

/-- A draining thread that waits while the other thread of its core has stopped (R226). -/
def drainStuck (s : State) (tid : Nat) : Bool :=
  let t := s.thread tid
  match t.status, t.loop with
  | .waiting w, some l =>
    (match l.mode with
     | .drain _ _ _ => !w.midway && peerStopped s tid
     | _ => false)
  | _, _ => false

/-- Soft pre-emption acts on a thread (R226). -/
def execSoftPreemptDrain (tid : Nat) (s : State) : Out :=
  let t := s.thread tid
  let live := match t.status with
    | .running | .waiting _ => true
    | _ => false
  .next (if !(t.soft || t.hard) || !live || !atBoundary t || causeWaits t then s
    else if t.hard then s.setThread tid (stopThread t)
    else if drainStuck s tid then s.setThread tid (stopThread t)
    else if softStopsHere t then s.setThread tid (softStop t)
    else s)

/-! ## Stopping, signalling and staying alive (R235) -/

/-- `done`: the thread stops for good; a record's fault is still raised at it. A single step of it has no next instruction to report
at, and none is reported (14 R286) (DESIGN CHOICE, log 104). -/
def execDone (h : Hdr) (_x : FmtB) (s : State) : Out :=
  .next (effectOp s h (.ok []) [] fun _ =>
    s.setTh { s.th with status := .done, window := [], stepMode := .none, soft := false, hard := false, blk := none,
                        entered := false, atEntry := false })
def execBrk (h : Hdr) (x : FmtB) (s : State) : Out :=
  .next (effectOp s h (.ok []) [] fun _ => raise s (codeTrap 0x31 x.off.toNat))
def execTrap (h : Hdr) (x : FmtB) (s : State) : Out :=
  .next (effectOp s h (.ok []) [] fun _ => raise s (codeTrap 0x30 x.off.toNat))

/-- LEFT of every core of a persistent launch is reloaded (11 R230). -/
def reloadAlive (s : State) (core : Nat) : State :=
  match launchOf s core with
  | some l =>
    if l.persist then
      l.cores.foldl (fun s c => s.setCore c { s.core c with wdog := { (s.core c).wdog with left := l.timeout } }) s
    else s
  | none => s
def execAlive (h : Hdr) (_x : FmtB) (s : State) : Out :=
  .next (effectOp s h (.ok []) [] fun _ => holdLoads s fun _ => reloadAlive (finishIn s []) (coreOf s.cur))

/-! ## Hints and block heads (R52-R54, R242) -/

/-- What a head reached makes of the window: it stays after a transfer or at entry; a sequential arrival passes the
newest positions (R53, R54) (DEDUCED, log 23). -/
def headArrival (t : Thread) (ar : Nat) (kinds : BitVec 8) : Except Nat (List Val) :=
  if t.atEntry then (if ar = 3 ∧ kinds = 0 then .ok t.window else .error 4)
  else if t.entered then .ok t.window
  else
    match passed t.window ar with
    | .error c => .error c
    | .ok p => if headMeets ar kinds p.reverse then .ok p else .error 4

def execNop (h : Hdr) (x : FmtS) (s : State) : Out :=
  let t := s.th
  .next (if x.aux.getLsbD 15 then
      (match headArrival t (x.aux.extractLsb' 8 4).toNat (x.aux.extractLsb' 0 8) with
       | .error c => raise s (wordTrap t c)
       | .ok w => if guardLost t h then raise s { cause := 0x19 } else s.setTh { finishThread t [] 0 with window := w })
    else effectOp s h (.ok []) [] fun _ => finishIn s [])

/-- `lit`: the next word, and both words passed over. -/
def execLit (h : Hdr) (_x : FmtS) (v : Word) (s : State) : Out :=
  .next (if guardLost s.th h then raise s { cause := 0x19 }
    else finishIn s (if enabled s.th h then [.s v] else disabledVals s.th h [.s 0]) 0 16)
def execPrio (h : Hdr) (x : FmtS) (s : State) : Out :=
  .next (updOp s h [] fun _ t => { t with hint := x.aux.extractLsb' 0 3 })

end Sys2Proof.Machine
end

