-- ==== Sys2Proof/Machine/Sha.lean ====
section
/-! DEFINITION. The SHA-2 family (FIPS 180-4), of which 13 R275 and R276 use SHA-384 and R275's LMS uses SHA-256. -/

namespace Sys2Proof.Machine

open Sys2Proof

/-- A big-endian number of bytes. -/
def beNat (l : List Byte) : Nat := l.foldl (fun n b => 256 * n + b.toNat) 0
/-- `n` big-endian bytes of a value. -/
def beBytes (n x : Nat) : List Byte := ((List.range n).map fun i => BitVec.ofNat 8 (x / 256 ^ i)).reverse

/-! ## The constants, as FIPS 180-4 defines them: fractions of roots of the first primes -/

/-- The first `n` primes, for n up to 80: the eightieth is 409. -/
def firstPrimes (n : Nat) : List Nat :=
  ((List.range 410).filter fun p => decide (2 ≤ p) && (List.range 21).all fun d => decide (d < 2) || p == d || p % d != 0).take n

/-- The integer `k`-th root of a number, by its bits below 2^80. -/
def rootOf (k x : Nat) : Nat :=
  (List.range 80).foldr (fun i r => if (r + 2 ^ i) ^ k ≤ x then r + 2 ^ i else r) 0

/-- The first `w` bits of the fraction of the `k`-th root of a number. -/
def rootFraction (w k x : Nat) : BitVec w := BitVec.ofNat w (rootOf k (x * 2 ^ (k * w)))

/-! ## The hash, over words of `w` bits -/

/-- A function of the family: its rounds, the rotations of the two sums over the chaining words, and those of the two sums
over the schedule, whose third amount is a shift. -/
structure Sha2 where
  rounds : Nat
  bigA : List Nat
  bigE : List Nat
  smallOld : List Nat
  smallNew : List Nat
deriving DecidableEq, Repr

def sha2Of256 : Sha2 := { rounds := 64, bigA := [2, 13, 22], bigE := [6, 11, 25], smallOld := [7, 18, 3], smallNew := [17, 19, 10] }
def sha2Of512 : Sha2 := { rounds := 80, bigA := [28, 34, 39], bigE := [14, 18, 41], smallOld := [1, 8, 7], smallNew := [19, 61, 6] }

/-- The exclusive or of the rotations of a word. -/
def turned {w : Nat} (rs : List Nat) (x : BitVec w) : BitVec w := rs.foldl (fun y n => y ^^^ x.rotateRight n) 0
/-- The same, the last amount being a shift. -/
def turnedShifted {w : Nat} (rs : List Nat) (x : BitVec w) : BitVec w := turned (rs.take 2) x ^^^ (x >>> rs.getD 2 0)

/-- The working words of a block: the last four of each of the two chains, newest first, and the next sixteen of the
schedule, oldest first. -/
structure ShaWork (w : Nat) where
  a : List (BitVec w)
  e : List (BitVec w)
  msg : List (BitVec w)
deriving DecidableEq, Repr

/-- A round with its constant: both chains grow by a word, and the schedule moves on by one. -/
def ShaWork.turn {w : Nat} (f : Sha2) (x : ShaWork w) (k : BitVec w) : ShaWork w :=
  let at_ := fun (l : List (BitVec w)) i => l.getD i 0
  let pick := (at_ x.e 0 &&& at_ x.e 1) ||| (~~~(at_ x.e 0) &&& at_ x.e 2)
  let most := (at_ x.a 0 &&& (at_ x.a 1 ||| at_ x.a 2)) ||| (at_ x.a 1 &&& at_ x.a 2)
  let t := at_ x.e 3 + turned f.bigE (at_ x.e 0) + pick + k + at_ x.msg 0
  let next := turnedShifted f.smallNew (at_ x.msg 14) + at_ x.msg 9 + turnedShifted f.smallOld (at_ x.msg 1) + at_ x.msg 0
  { a := (t + turned f.bigA (at_ x.a 0) + most) :: x.a.take 3
    e := (at_ x.a 3 + t) :: x.e.take 3
    msg := x.msg.drop 1 ++ [next] }

/-- The chaining words after a block, under the round constants. -/
def sha2Block {w : Nat} (f : Sha2) (ks : List (BitVec w)) (h : List (BitVec w)) (b : List Byte) : List (BitVec w) :=
  let words := (List.range 16).map fun i => BitVec.ofNat w (beNat ((b.drop (w / 8 * i)).take (w / 8)))
  let x := ks.foldl (ShaWork.turn f) { a := h.take 4, e := h.drop 4, msg := words }
  List.zipWith (· + ·) h (x.a ++ x.e)

/-- The chaining words after a message, from the round constants and initial ones: its bytes, a bit 1, zeros, and its length in bits. -/
def sha2 {w : Nat} (f : Sha2) (ks init : List (BitVec w)) (l : List Byte) : List (BitVec w) :=
  let n := 2 * w
  let len := w / 4
  let p := l ++ [0x80#8] ++ List.replicate ((2 * n - 1 - len - l.length % n) % n) 0 ++ beBytes len (8 * l.length)
  (List.range (p.length / n)).foldl (fun h i => sha2Block f ks h ((p.drop (n * i)).take n)) init

/-- The round constants of a function: cube roots. -/
def shaConstants (w : Nat) (f : Sha2) : List (BitVec w) := (firstPrimes f.rounds).map (rootFraction w 3)
def sha256Constants : List (BitVec 32) := shaConstants 32 sha2Of256
def sha512Constants : List (BitVec 64) := shaConstants 64 sha2Of512
/-- The initial words: square roots of the first eight primes, and for SHA-384 of the next eight. -/
def sha256Init : List (BitVec 32) := (firstPrimes 8).map (rootFraction 32 2)
def sha384Init : List (BitVec 64) := ((firstPrimes 16).drop 8).map (rootFraction 64 2)

/-- The SHA-384 digest of a message: 48 bytes. -/
def sha384 (l : List Byte) : List Byte :=
  ((sha2 sha2Of512 sha512Constants sha384Init l).take 6).flatMap fun w => beBytes 8 w.toNat

/-- The SHA-256 digest of a message: 32 bytes. -/
def sha256 (l : List Byte) : List Byte :=
  (sha2 sha2Of256 sha256Constants sha256Init l).flatMap fun w => beBytes 4 w.toNat

end Sys2Proof.Machine
end

