-- ==== Sys2Proof/Machine/Crypto.lean ====
section
/-! DEFINITION. The published algorithms that attestation, key delivery and firmware load use, as functions of their keys
(00 R8; 13 R275, R277; 14 R296): ECDSA over P-384 (FIPS 186-5), LMS in a two-level HSS (RFC 8554), and
AES-256-GCM. -/

namespace Sys2Proof.Machine

open Sys2Proof

/-! ## ECDSA over P-384 with SHA-384 -/

/-- The field prime, the coefficient b, the order of the base point, and the base point. -/
def p384 : Nat := 2 ^ 384 - 2 ^ 128 - 2 ^ 96 + 2 ^ 32 - 1
def p384b : Nat := 0xb3312fa7e23ee7e4988e056be3f82d19181d9c6efe8141120314088f5013875ac656398d8a2ed19d2a85c8edd3ec2aef
def p384n : Nat := 0xffffffffffffffffffffffffffffffffffffffffffffffffc7634d81f4372ddf581a0db248b0a77aecec196accc52973
def p384g : Nat × Nat :=
  (0xaa87ca22be8b05378eb1c71ef320ad746e1d3b628ba79b9859f741e082542a385502f25dbf55296c3a545e3872760ab7,
   0x3617de4a96262c6f5d9e98bf9292dc29f8f41dbd289a147ce9da3113b5f0b8c00a60b1ce1d7e819d7a431d7c90ea0e5f)

/-- Bits of a number below 2^384, the highest first. -/
def bits384 (x : Nat) : List Bool := (List.range 384).reverse.map fun i => x.testBit i
/-- A power modulo m. -/
def powMod (m a e : Nat) : Nat := (bits384 e).foldl (fun r b => if b then r * r % m * a % m else r * r % m) (1 % m)
/-- The inverse modulo a prime. -/
def invMod (m a : Nat) : Nat := powMod m (a % m) (m - 2)

/-- A point of the curve; `none` is the point at infinity. -/
abbrev EcPoint := Option (Nat × Nat)

/-- The third point of the line of slope `l` through two points, mirrored. -/
def ecThird (l : Nat) (a b : Nat × Nat) : EcPoint :=
  let x := (l * l + 2 * p384 - a.1 - b.1) % p384
  some (x, (l * (a.1 + p384 - x) + p384 - a.2) % p384)

/-- The sum of two points. -/
def ecAdd (a b : EcPoint) : EcPoint :=
  match a, b with
  | none, q => q
  | q, none => q
  | some u, some v =>
    if u.1 = v.1 then
      if (u.2 + v.2) % p384 = 0 then none
      else ecThird ((3 * u.1 * u.1 + p384 - 3) * invMod p384 (2 * u.2) % p384) u v
    else ecThird ((v.2 + p384 - u.2) * invMod p384 (v.1 + p384 - u.1) % p384) u v

/-- A multiple of a point. -/
def ecMul (k : Nat) (a : EcPoint) : EcPoint :=
  (bits384 k).foldl (fun r b => if b then ecAdd (ecAdd r r) a else ecAdd r r) none

/-- The point lies on the curve. -/
def ecOn (q : Nat × Nat) : Bool :=
  decide (q.1 < p384) && decide (q.2 < p384) && q.2 * q.2 % p384 == (q.1 * q.1 * q.1 + (p384 - 3) * q.1 + p384b) % p384

/-- The signature of a digest, r and then s in 48 big-endian bytes each, under a key and a nonce. -/
def ecdsaSign (key nonce : Nat) (digest : List Byte) : List Byte :=
  let r := match ecMul nonce (some p384g) with
    | some q => q.1 % p384n
    | none => 0
  beBytes 48 r ++ beBytes 48 (invMod p384n nonce * (beNat digest + r * key) % p384n)

/-- A signature of a digest verifies under a public key. -/
def ecdsaVerify (q : Nat × Nat) (digest sig : List Byte) : Bool :=
  let r := beNat (sig.take 48)
  let t := beNat (sig.drop 48)
  let w := invMod p384n t
  let at_ := ecAdd (ecMul (beNat digest * w % p384n) (some p384g)) (ecMul (r * w % p384n) (some q))
  sig.length == 96 && ecOn q && r != 0 && decide (r < p384n) && t != 0 && decide (t < p384n) &&
    (match at_ with
     | some x => x.1 % p384n == r
     | none => false)

/-! ## LMS and HSS: LMOTS_SHA256_N32_W8, LMS_SHA256_M32_H20 above LMS_SHA256_M32_H15 -/

/-- A chain of hashes of a one-time key from step `j` for `n` steps. -/
def otsChain (id : List Byte) (q i : Nat) : Nat → Nat → List Byte → List Byte
  | _, 0, x => x
  | j, n + 1, x => otsChain id q i (j + 1) n (sha256 (id ++ beBytes 4 q ++ beBytes 2 i ++ beBytes 1 j ++ x))

/-- The 34 digits that a message signs: its hash under the randomizer, and the checksum. -/
def otsDigits (id : List Byte) (q : Nat) (c msg : List Byte) : List Nat :=
  let h := (sha256 (id ++ beBytes 4 q ++ [0x81, 0x81] ++ c ++ msg)).map (·.toNat)
  let sum := h.foldl (fun n a => n + (255 - a)) 0
  h ++ [sum / 256, sum % 256]

/-- The secret start of chain `i` of one-time key `q`. -/
def otsSecret (id seed : List Byte) (q i : Nat) : List Byte := sha256 (id ++ beBytes 4 q ++ beBytes 2 i ++ [0xFF] ++ seed)

/-- The one-time public key that the ends of the chains make. -/
def otsKey (id : List Byte) (q : Nat) (ends : List (List Byte)) : List Byte :=
  sha256 (id ++ beBytes 4 q ++ [0x80, 0x80] ++ ends.flatten)

/-- The one-time public key of leaf `q`. -/
def otsPublic (id seed : List Byte) (q : Nat) : List Byte :=
  otsKey id q ((List.range 34).map fun i => otsChain id q i 0 255 (otsSecret id seed q i))

/-- The one-time signature of a message. -/
def otsSign (id seed : List Byte) (q : Nat) (c msg : List Byte) : List Byte :=
  beBytes 4 4 ++ c ++ (otsDigits id q c msg).zipIdx.flatMap fun a => otsChain id q a.2 0 a.1 (otsSecret id seed q a.2)

/-- The public key that a one-time signature of a message leads to. -/
def otsCandidate (id : List Byte) (q : Nat) (msg sig : List Byte) : List Byte :=
  let c := (sig.drop 4).take 32
  otsKey id q ((otsDigits id q c msg).zipIdx.map fun a =>
    otsChain id q a.2 a.1 (255 - a.1) ((sig.drop (36 + 32 * a.2)).take 32))

/-- A leaf and an inner node of a Merkle tree. -/
def lmsLeaf (id : List Byte) (r : Nat) (key : List Byte) : List Byte := sha256 (id ++ beBytes 4 r ++ [0x82, 0x82] ++ key)
def lmsInner (id : List Byte) (r : Nat) (x y : List Byte) : List Byte := sha256 (id ++ beBytes 4 r ++ [0x83, 0x83] ++ x ++ y)

/-- Node `r` of a tree of height `h`, `n` levels above its leaves. -/
def lmsNode (id seed : List Byte) (h : Nat) : Nat → Nat → List Byte
  | 0, r => lmsLeaf id r (otsPublic id seed (r - 2 ^ h))
  | n + 1, r => lmsInner id r (lmsNode id seed h n (2 * r)) (lmsNode id seed h n (2 * r + 1))

/-- The typecode of a tree of height 15 or 20. -/
def lmsType (h : Nat) : List Byte := beBytes 4 (if h = 20 then 8 else 7)

/-- The public key of a tree: its types, its identifier and its root. -/
def lmsPublic (id seed : List Byte) (h : Nat) : List Byte := lmsType h ++ beBytes 4 4 ++ id ++ lmsNode id seed h h 1

/-- The signature of a message by leaf `q` of a tree. -/
def lmsSign (id seed : List Byte) (h q : Nat) (c msg : List Byte) : List Byte :=
  beBytes 4 q ++ otsSign id seed q c msg ++ lmsType h ++
    (List.range h).flatMap fun i => lmsNode id seed h i (((2 ^ h + q) / 2 ^ i) ^^^ 1)

/-- The root that a path from a node leads to. -/
def lmsRoot (id : List Byte) : Nat → List (List Byte) → List Byte → List Byte
  | _, [], x => x
  | r, y :: l, x => lmsRoot id (r / 2) l (if r % 2 = 1 then lmsInner id (r / 2) y x else lmsInner id (r / 2) x y)

/-- Bytes of a signature by a tree. -/
def lmsSigBytes (h : Nat) : Nat := 4 + 4 + 32 + 34 * 32 + 4 + 32 * h

/-- A signature of a message verifies under the public key of a tree of height `h`. -/
def lmsVerify (h : Nat) (pub msg sig : List Byte) : Bool :=
  let id := (pub.drop 8).take 16
  let q := beNat (sig.take 4)
  let ots := (sig.drop 4).take 1124
  let path := (List.range h).map fun i => (sig.drop (1132 + 32 * i)).take 32
  pub.length == 56 && sig.length == lmsSigBytes h && pub.take 8 == lmsType h ++ beBytes 4 4 && ots.take 4 == beBytes 4 4
    && (sig.drop 1128).take 4 == lmsType h && decide (q < 2 ^ h)
    && lmsRoot id (2 ^ h + q) path (lmsLeaf id (2 ^ h + q) (otsCandidate id q msg ots)) == pub.drop 24

/-- A key of a tree: its identifier, its seed, and the randomizers of its signatures. -/
structure LmsKey where
  id : List Byte
  seed : List Byte
  rand : List Byte
deriving DecidableEq, Repr

/-- A two-level signature: leaf `q` of the top tree signs the bottom tree's public key, and its leaf `k` the message. -/
def hssSign (top bot : LmsKey) (q k : Nat) (msg : List Byte) : List Byte :=
  let pub := lmsPublic bot.id bot.seed 15
  beBytes 4 1 ++ lmsSign top.id top.seed 20 q top.rand pub ++ pub ++ lmsSign bot.id bot.seed 15 k bot.rand msg

/-- A two-level signature of a message verifies under the top tree's public key. -/
def hssVerify (pub msg sig : List Byte) : Bool :=
  let s0 := (sig.drop 4).take (lmsSigBytes 20)
  let pub1 := (sig.drop (4 + lmsSigBytes 20)).take 56
  sig.take 4 == beBytes 4 1 && lmsVerify 20 pub pub1 s0 && lmsVerify 15 pub1 msg (sig.drop (60 + lmsSigBytes 20))

/-! ## AES-256-GCM -/

/-- Multiplication by x, and the product of two bytes, in the field of AES. -/
def aesX (b : Byte) : Byte := (b <<< 1) ^^^ (if b.getLsbD 7 then 0x1B else 0)
def aesMul (a b : Byte) : Byte :=
  ((List.range 8).foldl (fun (r : Byte × Byte) i => (aesX r.1, if b.getLsbD i then r.2 ^^^ r.1 else r.2)) (a, 0)).2

/-- The S-box: the inverse, which is the 254th power, and the affine map. -/
def aesSbox (b : Byte) : Byte :=
  let inv := ((List.range 7).foldl (fun (r : Byte × Byte) _ => let q := aesMul r.1 r.1; (q, aesMul r.2 q)) (b, 1)).2
  inv ^^^ inv.rotateLeft 1 ^^^ inv.rotateLeft 2 ^^^ inv.rotateLeft 3 ^^^ inv.rotateLeft 4 ^^^ 0x63

def xorBytes (a b : List Byte) : List Byte := (a.zip b).map fun x => x.1 ^^^ x.2

/-- The words of the key schedule from number `i` on, from those before it, newest first. -/
def aesExpand : Nat → Nat → Byte → List (List Byte) → List (List Byte)
  | 0, _, _, w => w
  | n + 1, i, rc, w =>
    let t := w.headD []
    let u := if i % 8 = 0 then xorBytes ((t.drop 1 ++ t.take 1).map aesSbox) [rc, 0, 0, 0]
      else if i % 8 = 4 then t.map aesSbox else t
    aesExpand n (i + 1) (if i % 8 = 0 then aesX rc else rc) (xorBytes (w.getD 7 []) u :: w)

/-- The fifteen round keys of a key of 32 bytes. -/
def aesKeys (k : List Byte) : List (List Byte) :=
  let w := (aesExpand 52 8 1 ((List.range 8).map fun i => (k.drop (4 * i)).take 4).reverse).reverse
  (List.range 15).map fun r => ((w.drop (4 * r)).take 4).flatten

/-- Bytes substituted and rows shifted. -/
def aesShift (b : List Byte) : List Byte := (List.range 16).map fun i => aesSbox (b.getD ((i + 4 * (i % 4)) % 16) 0)

/-- Columns mixed. -/
def aesMix (b : List Byte) : List Byte :=
  (List.range 16).map fun i =>
    let at_ := fun k => b.getD (i / 4 * 4 + (i + k) % 4) 0
    aesX (at_ 0) ^^^ (aesX (at_ 1) ^^^ at_ 1) ^^^ at_ 2 ^^^ at_ 3

/-- A block of 16 bytes enciphered. -/
def aesBlock (k b : List Byte) : List Byte :=
  match aesKeys k with
  | [] => []
  | k0 :: ks =>
    let mid := (ks.take 13).foldl (fun b r => xorBytes (aesMix (aesShift b)) r) (xorBytes b k0)
    xorBytes (aesShift mid) (ks.getD 13 [])

/-- The product in the field of GCM, whose bits stand in reverse order. -/
def gcmMul (x y : BitVec 128) : BitVec 128 :=
  ((List.range 128).foldl (fun (r : BitVec 128 × BitVec 128) i =>
    (if x.getMsbD i then r.1 ^^^ r.2 else r.1, (r.2 >>> 1) ^^^ (if r.2.getLsbD 0 then 0xE1#128 <<< 120 else 0))) (0, y)).1

/-- Blocks of 16 bytes of a list, the last one filled with zeros. -/
def gcmBlocks (l : List Byte) : List (List Byte) :=
  (List.range ((l.length + 15) / 16)).map fun i =>
    let b := (l.drop (16 * i)).take 16
    b ++ List.replicate (16 - b.length) 0

/-- The hash of associated data and ciphertext. -/
def gcmHash (h : BitVec 128) (aad c : List Byte) : List Byte :=
  let bs := gcmBlocks aad ++ gcmBlocks c ++ [beBytes 8 (8 * aad.length) ++ beBytes 8 (8 * c.length)]
  beBytes 16 (bs.foldl (fun y b => gcmMul (y ^^^ BitVec.ofNat 128 (beNat b)) h) 0).toNat

/-- Data under the counter stream of a key and a nonce of 12 bytes. -/
def gcmStream (k iv d : List Byte) : List Byte :=
  xorBytes d ((List.range ((d.length + 15) / 16)).flatMap fun i => aesBlock k (iv ++ beBytes 4 (i + 2)))

/-- The authentication tag. -/
def gcmTag (k iv aad c : List Byte) : List Byte :=
  xorBytes (gcmHash (BitVec.ofNat 128 (beNat (aesBlock k (List.replicate 16 0)))) aad c) (aesBlock k (iv ++ beBytes 4 1))

/-- The plaintext of an enciphered message, if it authenticates. -/
def gcmOpen (k iv aad c tag : List Byte) : Option (List Byte) :=
  if tag == gcmTag k iv aad c then some (gcmStream k iv c) else none

end Sys2Proof.Machine
end

