-- ==== Sys2Proof/Machine/MemOps.lean ====
section
/-! DEFINITION. What the memory instructions share: reading and writing locations, waiting for an order, holding back an
access thread, and atomics (08 R155-R164; 10 R180, R195, R196, R198-R200; 21 R336). -/

namespace Sys2Proof.Machine

open Sys2Proof

/-! ## Reading locations -/

/-- Why a read gives no value yet: it waits, or its data is poisoned. -/
inductive ReadStop where
  | wait (w : Wait)
  | cause (c : Nat)
deriving DecidableEq, Repr

/-- Bytes a location touches. -/
def Loc.bytes (l : Loc) : Nat := (l.2 + 7) / 8

/-- A queue load of the access thread that has not been performed overlaps these bytes (R156). -/
def askedOverlap (s : State) (core : Nat) (st : Store) (a n : Nat) : Bool :=
  (s.core core).queues.any fun q => q.2.any fun e =>
    match e.status with
    | .asked lanes => lanes.any fun l =>
        l.place.store == st && decide (l.place.addr < a + n) && decide (a < l.place.addr + (l.len + 7) / 8)
    | _ => false

/-- The value of a location in the bytes read. -/
def locValue (l : Loc) (bytes : List Byte) : Nat :=
  match l.1.nib with
  | none => leNat bytes % 2 ^ l.2
  | some hi => (if hi then leNat bytes / 16 else leNat bytes) % 16

/-- How an agent reads one location for a thread, or why it does not yet (R157, R158, R180). -/
def readStopOf (s : State) (tid : Nat) (w : Who) (l : Loc) : Except ReadStop ReadPath :=
  let n := l.bytes
  if !isExe tid && askedOverlap s (coreOf tid) l.1.store l.1.addr n then .error (.wait .loads)
  else
    match readPath s tid l.1.store l.1.addr n (nibMask l.1.nib) with
    | .wait seqs => .error (.wait (.applied seqs))
    | .early x => .ok (.early x)
    | .home =>
      match poisonIn s w l.1.store l.1.addr n with
      | some k => .error (.cause (poisonCause k))
      | none => .ok .home

/-- Read locations one after another; each die read is observed (R160). -/
def readEach (s : State) (tid : Nat) (w : Who) : List Loc → Except ReadStop (List Nat × State)
  | [] => .ok ([], s)
  | l :: ls =>
    match readStopOf s tid w l with
    | .error e => .error e
    | .ok path =>
      let st := l.1.store
      let v := locValue l (readAlong s w path st l.1.addr l.bytes)
      let d := dieOf (coreOf tid)
      let s0 := touchFrame (useFresh s w st l.1.addr l.bytes) d l.1
      let s1 := observe s0 d (homeOf s0 st l.1.addr)
      match readEach s1 tid w ls with
      | .error e => .error e
      | .ok (vs, s2) => .ok (v :: vs, s2)

/-- The requests that reading some locations makes of a memory port: neighbours of one block of 2 KiB share one (21 R340)
(DESIGN CHOICE, log 75). -/
def portRuns (ls : List Loc) : List (Store × Nat × Nat) :=
  ls.foldr (fun l acc =>
    let a := l.1.addr
    let b := a + l.bytes
    match acc with
    | (st, lo, hi) :: r =>
      if st = l.1.store ∧ lo / 2048 = a / 2048 then (st, min a lo, max b hi) :: r else (l.1.store, a, b) :: acc
    | [] => [(l.1.store, a, b)]) []

/-- The memory ports are asked for what an access reads from its homes. -/
def askPorts (s : State) (tid : Nat) (w : Who) (ls : List Loc) : State :=
  (portRuns (ls.filter fun l => readPath s tid l.1.store l.1.addr l.bytes (nibMask l.1.nib) == .home)).foldl
    (fun s r => readPort s w r.1 r.2.1 (r.2.2 - r.2.1)) s

/-- An access reads its locations. -/
def readLocsAs (s : State) (tid : Nat) (w : Who) (ls : List Loc) : Except ReadStop (List Nat × State) :=
  (readEach s tid w ls).map fun r => (r.1, askPorts r.2 tid w ls)

/-- The same for a thread's own access (DEDUCED, log 13). -/
def readLocs (s : State) (tid : Nat) (ls : List Loc) : Except ReadStop (List Nat × State) :=
  readLocsAs s tid (whoOf s tid) ls

/-- A read that stops parks its thread or raises its cause, under the trap the access reports. -/
def stopRead (s : State) (t : Trap) : ReadStop → State
  | .wait w => park s w
  | .cause c => raise s { t with cause := c }

/-! ## Writing locations -/

/-- The cells of a value at a location: whole bytes or one nibble. -/
def locCells (l : Loc) (v : Nat) : List WCell :=
  match l.1.nib with
  | none => cellsOf l.1.addr (leBytes l.bytes v)
  | some hi =>
    [{ addr := l.1.addr, val := BitVec.ofNat 8 (if hi then v % 16 * 16 else v % 16), mask := if hi then 0xF0 else 0x0F }]

/-- The tag unit a location lies in. -/
def unitKey (l : Loc) : Store × Nat := (l.1.store, unitOf l.1.store l.1.addr)

/-- Runs of neighbouring locations in one tag unit: the unit, the bits they cover and how many they are. -/
def unitRuns (ls : List Loc) : List ((Store × Nat) × Nat × Nat) :=
  ls.foldr (fun l acc =>
    match acc with
    | (k, b, n) :: r => if k = unitKey l then (k, b + l.2, n + 1) :: r else (unitKey l, l.2, 1) :: acc
    | [] => [(unitKey l, l.2, 1)]) []

/-- The parts of a store of these locations, in order (R155; 13 R263; 21 R341): neighbours in one unit are one write of the
unit, and the store counts once. Those of a scatter are each a write of its own (DESIGN CHOICE, log 75). -/
def piecesOf (join : Bool) (ls : List Loc) : List Piece :=
  let l : List Piece :=
    if join then (unitRuns ls).flatMap fun r =>
      let line := decide (r.2.1 = 8 * (unitRange r.1.1 r.1.2).2)
      List.replicate (r.2.2 - 1) { line, last := false } ++ [{ line, last := true }]
    else ls.map fun _ => {}
  l.zipIdx.map fun p => { p.1 with nth := p.2, ends := decide (p.2 + 1 = ls.length) }

/-- Issue the parts of a store in order, each with the trap that reports its loss (R157, R169) (DEDUCED, log 15). -/
def issueParts (s : State) (tid : Nat) (w : Who) (mca : Bool) (handle : Nat) (l : List ((Loc × Nat × Trap) × Piece)) : State :=
  l.foldl (fun s x =>
    issueWrite s { w with piece := x.2 } tid (.bytes x.1.1.1.store (locCells x.1.1 x.1.2.1)) mca handle x.1.2.2) s

/-- Issue a write of each location. -/
def writeLocsAs (s : State) (tid : Nat) (w : Who) (mca : Bool) (handle : Nat) (join : Bool) (l : List (Loc × Nat × Trap)) : State :=
  issueParts s tid w mca handle (l.zip (piecesOf join (l.map (·.1))))

/-- The same for a thread's own access. -/
def writeLocs (s : State) (tid : Nat) (mca : Bool) (handle : Nat) (join : Bool) (l : List (Loc × Nat × Trap)) : State :=
  writeLocsAs s tid (whoOf s tid) mca handle join l

/-! ## Order (08 R161-R170) -/

/-- The orders that hold earlier accesses: release, acq-rel and sc. -/
def ordReleases (o : Nat) : Bool := o == 2 || o == 3 || o == 4

/-- The first lost write of a thread that an order at this scope covers (R169) (DESIGN CHOICE, log 17). -/
def lostAt (t : Thread) (scope : Nat) : Option Trap := if scope < 3 then none else t.lostWrites.head?

/-- Cause 0x1A for a lost write; the write is no longer awaited (R169, 14 R283) (DESIGN CHOICE, log 17). -/
def raiseLost (s : State) (c : Trap) : State :=
  let t := s.th
  holdLoads s fun _ => raise (s.setTh { t with lostWrites := t.lostWrites.drop 1 }) c

/-- A fence, a release or a barrier reports a lost write that its scope covers before it acts (R169). -/
def lostGate (s : State) (scope : Nat) (f : Unit → State) : State :=
  match lostAt s.th scope with
  | some c => raiseLost s c
  | none => f ()

/-- An access goes on once every write its order covers is visible at its scope; until then its thread waits. -/
def orderGate (s : State) (scope : Nat) (f : Unit → State) : State :=
  let d := dieOf (coreOf s.cur)
  match s.th.status with
  | .waiting (.order sc clock) => if orderMet s d sc clock then f () else s
  | _ =>
    let clock := (s.die d).clock
    if orderMet s d scope clock then f () else park s (.order scope clock)

/-- The order an access asks for, before it: an sc access acts first as `fence.sc`, so the earlier queue loads of an access
thread are performed too (R161, R162). -/
def withOrder (s : State) (ord scope : Nat) (f : Unit → State) : State :=
  if !ordReleases ord then f ()
  else if ord = 4 then holdLoads s fun _ => lostGate s scope fun _ => orderGate s scope f
  else lostGate s scope fun _ => orderGate s scope f

/-- The end of an access: an sc access also waits for its own write and what it observed (R162). -/
def finishOrder (s : State) (ord scope : Nat) (vals : List Val) (fl : Flags := 0) : State :=
  let d := dieOf (coreOf s.cur)
  let clock := (s.die d).clock
  if ord = 4 ∧ !orderMet s d scope clock then park s (.after scope clock vals fl) else finishIn s vals fl

/-- An sc access that has been performed is done; a lost write that the order after it covers is a pending cause (R162, R169)
(DESIGN CHOICE, log 17). -/
def endAfter (s : State) (scope : Nat) (vals : List Val) (fl : Flags) : State :=
  let s1 := finishIn s vals fl
  match lostAt s.th scope with
  | none => s1
  | some c => addPend (s1.setTh { s1.th with lostWrites := s1.th.lostWrites.drop 1 }) s.cur c

/-- No write of a die with one of these numbers is still to be applied. -/
def writesDone (s : State) (d : Nat) (seqs : List Nat) : Bool := (unapplied s d).all fun w => !seqs.contains w.seq

/-- An sc access that has been performed ends once its order holds, an increment that acquires once it is performed at its home; any
other goes on (R162; 10 R204). -/
def afterFirst (s : State) (f : Unit → State) : State :=
  match s.th.status with
  | .waiting (.performed seqs) => if writesDone s (dieOf (coreOf s.cur)) seqs then finishIn s [] else s
  | .waiting (.after scope clock vals fl) =>
    if orderMet s (dieOf (coreOf s.cur)) scope clock then endAfter s scope vals fl else s
  | _ => f ()

/-! ## Atomics (10 R198-R200) -/

/-- The value an atomic writes, if it writes, and the flags it raises (R198). -/
def amoNew (op : AmoOp) (ty : Ty) (old : Nat) (b c : Word) : Option Nat × Flags :=
  let w := ty.width
  let bv := b.toNat % 2 ^ w
  let o := numOf ty old
  let x := numOf ty bv
  match op with
  | .add => (some ((old + bv) % 2 ^ w), 0)
  | .min => (some (if Num.lt x o then bv else old), 0)
  | .max => (some (if Num.lt o x then bv else old), 0)
  | .and_ => (some (old &&& bv), 0)
  | .or_ => (some (old ||| bv), 0)
  | .xor_ => (some (old ^^^ bv), 0)
  | .swap => (some bv, 0)
  | .cas => (if old = bv then some (c.toNat % 2 ^ w) else none, 0)
  | .fadd =>
    let r := Num.add o x
    let y := finish .f32 0 0 r.1
    (some y.1, r.2 ||| y.2)
  | .madd => if modValid c.toNat then (some ((old + bv) % c.toNat), 0) else (some 0, fMOD)

/-- An atomic may be performed at its home: every earlier write of its die is applied, and every write its die has
observed is known there (R160). -/
def amoReady (s : State) (tid : Nat) (r : AmoReq) : Bool :=
  let src := dieOf (coreOf tid)
  let home := homeOf s r.place.store r.place.addr
  (unapplied s src).isEmpty && clockMet s home src (nextSeq s src) (s.die src).clock

/-- The locations of an atomic: one, unless two granules share it. -/
def AmoReq.locs (r : AmoReq) : List Loc := if r.parts.isEmpty then [(r.place, r.ty.width)] else r.parts.map (·, 8)

/-- An atomic at its home, indivisibly: the old value, the flags and the state after it, or the cause of its poison (DEDUCED, log 16). -/
def amoPerform (s : State) (tid : Nat) (r : AmoReq) : Except Nat (Word × Flags × State) :=
  let w : Who := { whoOf s tid with tag := r.tag }
  let src := dieOf (coreOf tid)
  match r.locs.findSome? fun l => poisonIn s w l.1.store l.1.addr l.bytes with
  | some k => .error (poisonCause k)
  | none =>
    let old := joinVals r.locs (r.locs.map fun l => leNat (readAlong s w .home l.1.store l.1.addr l.bytes))
    let s0 := countAtomic (useFresh s w r.place.store r.place.addr (r.ty.width / 8)) src r.place
    let home := homeOf s0 r.place.store r.place.addr
    let s1 := r.locs.foldl (fun s l => readPort s w l.1.store l.1.addr l.bytes) s0
    let x := amoNew r.op r.ty old r.b r.c
    match x.1 with
    | none => .ok (BitVec.ofNat 64 old, x.2, migrateAfter (observe s1 src home) r.place)
    | some v =>
      let s2 := (r.locs.zip (cutVals r.locs v)).foldl (fun s u =>
        performOp s w (.bytes u.1.1.store (cellsOf u.1.1.addr (leBytes u.1.bytes u.2)))) (countIssue s1 src)
      .ok (BitVec.ofNat 64 old, x.2, migrateAfter (observe (noteApplied s2 src home) src home) r.place)

/-- An atomic whose thread has been discarded arrives: it is applied where its checking point still takes its generation, and dropped
elsewhere (13 R263, R266). -/
def lateAmo (s : State) (tid : Nat) (r : AmoReq) : State :=
  if passes s { tag := r.tag } r.place.store r.place.addr && owns s (tagPart r.tag) r.place.store r.place.addr then
    (match amoPerform s tid r with
     | .ok x => x.2.2
     | .error _ => s)
  else dropAmo s r

end Sys2Proof.Machine
end

