-- ==== Sys2Proof/Machine/MemInstr.lean ====
section
/-! DEFINITION. Flat memory instructions and `bnld` (10 R179-R185, R195, R196; 12 R240; 08 R165, R166): major 0x7. -/

namespace Sys2Proof.Machine

open Sys2Proof

/-- Effective address (R179). -/
def effAddr (base : Word) (disp : BitVec 12) : Nat := (base + disp.signExtend 64).toNat

/-- Bytes of a SIZE code (R60). -/
def sizeBytes (n : BitVec 3) : Nat :=
  match n.toNat with
  | 0 => 1 | 1 => 2 | 2 => 4 | 3 => 8 | 4 => 64 | 5 => 512
  | _ => 1

/-- A load of `n` bytes: the place is checked, the order kept, the units read, and the value appended. -/
def loadOp (s : State) (h : Hdr) (x : FmtM) (zero : Val) (val : Nat → Val) : State :=
  afterFirst s fun _ =>
    effectOp s h (getOps s.th [(.s, x.opa)]) [zero] fun vs =>
      let ea := effAddr (arg vs 0).word x.disp
      let n := sizeBytes x.size
      match flatLocs s s.cur ea n n .load with
      | .error t => raise s t
      | .ok ls =>
        withOrder s x.ord.toNat x.scp.toNat fun _ =>
          match readLocs s s.cur ls with
          | .error e => stopRead s (flatTrap 0x19 ea) e
          | .ok (ws, s1) =>
            finishOrder (askFlat s1 s.cur ea) x.ord.toNat x.scp.toNat [val (joinVals ls ws)]

def execLdi (h : Hdr) (x : FmtM) (s : State) : Out :=
  .next (loadOp s h x (.s 0) fun v => .s (BitVec.ofInt 64 (signedOf (8 * sizeBytes x.size) v)))
def execLdn (h : Hdr) (x : FmtM) (s : State) : Out := .next (loadOp s h x (.s 0) fun v => .s (BitVec.ofNat 64 v))
def execLdv (h : Hdr) (x : FmtM) (s : State) : Out := .next (loadOp s h x (.v 0) fun v => .v (BitVec.ofNat 4096 v))

/-- The parts of a store of a number at the locations of an address: each with its value and what its loss reports (R169). -/
def storeParts (ea : Nat) (ls : List Loc) (v : Nat) : List (Loc × Nat × Trap) :=
  (ls.zip ((cutVals ls v).zip (locOffs ea ls))).map fun u => (u.1, u.2.1, flatTrap 0x1A u.2.2)

/-- A store of the low `n` bytes of a value. -/
def storeOp (s : State) (h : Hdr) (x : FmtM) (need : Need) (val : Val → Nat) : State :=
  afterFirst s fun _ =>
    effectOp s h (getOps s.th [(.s, x.opa), (need, x.opb)]) [] fun vs =>
      let ea := effAddr (arg vs 0).word x.disp
      let n := sizeBytes x.size
      match flatLocs s s.cur ea n n .store with
      | .error t => raise s t
      | .ok ls =>
        holdLoads s fun _ =>
          withOrder s x.ord.toNat x.scp.toNat fun _ =>
            finishOrder (writeLocs (askFlat s s.cur ea) s.cur (x.mca == 1) 0 true
              (storeParts ea ls (val (arg vs 1)))) x.ord.toNat x.scp.toNat []

def execSt (h : Hdr) (x : FmtM) (s : State) : Out := .next (storeOp s h x .s fun v => v.word.toNat)
def execStv (h : Hdr) (x : FmtM) (s : State) : Out := .next (storeOp s h x .v fun v => (v.vec 64).toNat)

/-- `pref`: no access, no effect, no cause of its address (R184). -/
def execPref (h : Hdr) (x : FmtM) (s : State) : Out :=
  .next (effectOp s h (getOps s.th [(.s, x.opa)]) [] fun _ => finishIn s [])

/-! ## Queue loads (R183, R195, R196) -/

/-- The thread before a queue load, as a fault of its data restores it. -/
def checkpoint (t : Thread) : Thread := { t with status := .running }

/-- Push an entry of the access thread. One that takes the place of an entry a fault has discarded is its record's, if one
had reserved that (R195, 12 R251) (DEDUCED, log 31). -/
def pushEntry (s : State) (core q : Nat) (e : Entry) : State :=
  let c := s.core core
  let owed := tget c.owed q []
  s.setCore core { c with queues := tput [] c.queues q (tget c.queues q [] ++ [{ e with issue := c.nextPush, taker := owed.head?, pushed := s.cycle + 1, readied := if e.status = .ready then s.cycle + 1 else 0 }]),
                          owed := tput [] c.owed q (owed.drop 1), nextPush := c.nextPush + 1 }

/-- Occupied entries of a queue. -/
def queueLen (s : State) (core q : Nat) : Nat := (tget (s.core core).queues q []).length

/-- The lanes of a queue load, each location filling its bits of the entry. -/
def lanesOfLocs (ls : List (Nat × Loc)) : List Lane := ls.map fun l => { place := l.2.1, dst := l.1, len := l.2.2 }

/-- An entry's data from the values of its lanes. -/
def fillLanes (ls : List Lane) (vs : List Nat) : Vec :=
  BitVec.ofNat 4096 ((ls.zip vs).foldl (fun n x => n ||| (x.2 % 2 ^ x.1.len * 2 ^ x.1.dst)) 0)

/-- A queue load whose place is known: the entry takes its place and its request goes out; one that acquires is
performed now (R161, R183) (DEDUCED, log 13 and 21). `asks` makes the walk of its address. -/
def queueLoad (s : State) (q ord scope : Nat) (t : Trap) (asks : State → State) (ls : List Lane) : State :=
  let core := coreOf s.cur
  if isExe s.cur then raise s { cause := 0x22 }
  else if 16 ≤ queueLen s core q then park s (.qspace q 1)
  else
    withOrder s ord scope fun _ =>
      let e : Entry := { tag := (whoOf s s.cur).tag, ckpt := some (checkpoint s.th), trap := t }
      if ord = 0 then finishIn (pushEntry (asks s) core q { e with status := .asked ls }) []
      else
        match readLocs s s.cur (ls.map fun l => (l.place, l.len)) with
        | .error (.wait w) => park s w
        | .error (.cause c) => raise s { t with cause := c }
        | .ok (vs, s1) =>
          finishOrder (pushEntry (asks s1) core q { e with status := .replied, data := fillLanes ls vs }) ord scope []

/-- A queue load whose translation meets a cause. A plain one of an access thread that is past the checks of its address
goes on: its entry is pending until the cause comes back (R195); any other takes the cause now (DEDUCED, log 21). -/
def queueFault (s : State) (q ord : Nat) (t : Trap) : State :=
  let core := coreOf s.cur
  if isExe s.cur || ord != 0 || !([0x10, 0x11, 0x12, 0x19].contains t.cause) then raise s t
  else if 16 ≤ queueLen s core q then park s (.qspace q 1)
  else
    finishIn (pushEntry s core q { status := .replied, tag := (whoOf s s.cur).tag, ckpt := some (checkpoint s.th),
                                   trap := t, fault := some t }) []

def execLdq (h : Hdr) (x : FmtM) (s : State) : Out :=
  .next (afterFirst s fun _ =>
    effectOp s h (getOps s.th [(.s, x.opa)]) [] fun vs =>
      let ea := effAddr (arg vs 0).word x.disp
      match flatLocs s s.cur ea 512 512 .load with
      | .error t => queueFault s (x.opb.extractLsb' 0 3).toNat x.ord.toNat t
      | .ok ls =>
        queueLoad s (x.opb.extractLsb' 0 3).toNat x.ord.toNat x.scp.toNat (flatTrap 0x19 ea) (fun s => askFlat s s.cur ea)
          (lanesOfLocs ((locOffs 0 ls).zip ls |>.map fun l => (8 * l.1, l.2))))

/-! ## Sealing (R185; 08 R165, R166; 13 R272) -/

/-- Every core, live or in a shadow bank, rewritten with the partition it stands for. -/
def mapCores (s : State) (f : Nat → Core → Core) : State :=
  { s with cores := s.cores.map fun c => (c.1, f (partOf s c.1) c.2),
           groups := s.groups.map fun g => (g.1, { g.2 with shadow := g.2.shadow.map fun x =>
             { x with cores := x.cores.map fun c => (c.1, f x.part c.2) } }) }

/-- SEAL, bit 17 of word 0 of a descriptor at a flat address, as it becomes in a descriptor cache (13 R274). -/
def viewSeal (s : State) (a : Nat) (on : Bool) (v : Tab Memory) : Tab Memory :=
  match flat0 a with
  | none => v
  | some (d, x) =>
    tput {} v d (writeUnit (who0 s) (.hbm d) (tget v d {}) ((x + 2) / 64)
      [{ addr := x + 2, val := if on then 2 else 0, mask := 2 }])

/-- Word 0 of the descriptor of a handle, as it stands in partition 0 storage. -/
def descWord (s : State) (p h : Nat) : Nat := devNat s none ((s.part p).tdt + 64 * h) 8

/-- The seal state of a descriptor set or cleared, and its version bumped. Every core's descriptor cache takes the seal state at
once and nothing else: the version and what else waits in the descriptor come with its next refresh (13 R274)
(DESIGN CHOICE, log 61). -/
def putSeal (s : State) (p h : Nat) (on : Bool) : State :=
  let w := BitVec.ofNat 64 (descWord s p h)
  let v := w.extractLsb' 32 32 + 1
  let w1 := (w &&& 0xFFFFFFFF#64 &&& ~~~(0x20000#64)) ||| (v.zeroExtend 64 <<< 32) ||| (if on then 0x20000#64 else 0)
  let a := (s.part p).tdt + 64 * h
  mapCores (devWrite s a (leBytes 8 w1.toNat)) fun q c =>
    { c with view := c.view.map (viewSeal s a on),
             unseen := if q = p ∧ c.launch.isSome ∧ !c.unseen.contains h then c.unseen ++ [h] else c.unseen }

/-- The page-table version of every shard of a handle is bumped (13 R272) (DESIGN CHOICE, log 5). -/
def bumpShards (s : State) (p h : Nat) (n : Nat) : State :=
  { s with ptVersions := (List.range n).foldl (fun t i =>
      let k := p * 2 ^ 21 + h * 2 ^ 8 + i
      tput 0 t k (tget t k 0 + 1)) s.ptVersions }

/-- A shootdown of a handle of a partition: entries that `hit` leave every core's TLB (13 R272). -/
def shootTlb (s : State) (p h : Nat) (hit : TlbEntry → Bool) : State :=
  { s with cores := s.cores.map fun c =>
      (c.1, { c.2 with tlb := c.2.tlb.filter fun e => !(tagPart e.tag == p && e.handle == h && hit e) }) }

/-- Writes to a handle of a partition that are not applied: die and sequence number (08 R165). -/
def writesTo (s : State) (p h : Nat) : List (Nat × Nat) :=
  (s.writes.filter fun w => !w.applied && !w.lost && tagPart w.tag == p && w.handle == h).map fun w => (w.src, w.seq)

/-- Those writes have been applied. -/
def allApplied (s : State) (l : List (Nat × Nat)) : Bool := l.all fun x => decide (x.2 ≤ tget s.applied x.1 0)

/-- The descriptor of a handle as its table holds it now (DESIGN CHOICE, log 10). -/
def liveDesc (s : State) (p h : Nat) : Desc := readDesc s none p h

/-- A thread is at a `seal` or `unseal` of the handle that has not taken effect. -/
def atSeal (s : State) (tid h : Nat) : Bool :=
  match (s.thread tid).status with
  | .waiting (.seal k _) | .waiting (.sealRel k _) | .waiting (.unseal k) | .waiting (.sealTurn k) => k == h
  | _ => false

/-- The current thread takes its place for a handle, if it has none (R185). -/
def joinSeal (s : State) (h : Nat) : State :=
  let p := partOf s (coreOf s.cur)
  let q := (s.part p).sealQ.filter fun e => e.1 != h || e.2 == s.cur || atSeal s e.2 h
  s.setPart p { s.part p with sealQ := if q.contains (h, s.cur) then q else q ++ [(h, s.cur)] }

/-- It is the first for the handle. -/
def firstSeal (s : State) (h : Nat) : Bool :=
  match ((s.part (partOf s (coreOf s.cur))).sealQ.find? fun e => e.1 == h) with
  | some e => e.2 == s.cur
  | none => true

/-- It has taken effect. -/
def leaveSeal (s : State) (h : Nat) : State :=
  let p := partOf s (coreOf s.cur)
  s.setPart p { s.part p with sealQ := (s.part p).sealQ.filter (· != (h, s.cur)) }

/-- The end of a `seal`: once its release holds, it has completed and the next of its handle may act (R185); a write lost meanwhile is
reported first (08 R169). -/
def sealEnd (s : State) (h : Nat) (clock : Tab Nat) : State :=
  lostGate s 5 fun _ =>
    if orderMet s (dieOf (coreOf s.cur)) 5 clock then finishIn (leaveSeal s h) [] else park s (.sealRel h clock)

/-- The release of a `seal` (08 R165): every earlier write is acknowledged. -/
def sealRelease (s : State) (h : Nat) : State :=
  sealEnd s h (s.die (dieOf (coreOf s.cur))).clock

/-- A `seal` goes on once those writes are applied. -/
def sealWait (s : State) (h : Nat) (l : List (Nat × Nat)) : State :=
  if allApplied s l then sealRelease s h else park s (.seal h l)

/-- The first `seal` of a handle acts: the seal is set, its translations are shot down, and it waits for the writes that
passed translation before; one of a sealed tensor waits for those that are left (08 R165). -/
def sealNow (s : State) (h : Nat) : State :=
  let p := partOf s (coreOf s.cur)
  let d := liveDesc s p h
  if d.sealed_ then sealWait s h (writesTo s p h)
  else
    let s1 := bumpShards (shootTlb (putSeal s p h true) p h fun _ => true) p h (d.scnt + 1)
    sealWait s1 h (writesTo s1 p h)

/-- An instruction on the seal of a handle uses its descriptor as the table holds it: lost data is cause 0x19 (14 R292). -/
def sealDesc (s : State) (h : Nat) (f : Unit → State) : State :=
  match descPoison s none (partOf s (coreOf s.cur)) h with
  | some l => raise s { tensorTrap 0x19 h [] with errAt := some l }
  | none => f ()

/-- `seal` (R185). -/
def execSeal (h : Hdr) (x : FmtM) (s : State) : Out :=
  .next (effectOp s h (getOps s.th [(.s, x.opa)]) [] fun vs =>
    let k := (arg vs 0).word.toNat % 2 ^ 13
    match s.th.status with
    | .waiting (.seal _ l) => sealWait s k l
    | .waiting (.sealRel _ clock) => sealEnd s k clock
    | _ => sealDesc s k fun _ =>
      if k = 0 ∨ !(liveDesc s (partOf s (coreOf s.cur)) k).w then raise s (tensorTrap 0x11 k [])
      else
        holdLoads s fun _ =>
          let s1 := joinSeal s k
          if firstSeal s1 k then sealNow s1 k else park s1 (.sealTurn k))

/-- The handle a `migrep` replicates: that of D1 (12 R258, 04 R66). -/
def migrepHandle (r : FmtR) : Nat := (r.w4.extractLsb' 35 13).toNat

/-- No replica of the handle is in use: no `migrep` of it is queued or running (R166). -/
def unsealReady (s : State) (p h : Nat) : Bool :=
  !(s.cores.any fun c => partOf s c.1 == p && c.2.copyQ.any fun r => r.op == .migrep && migrepHandle r.r == h)

/-- The completion of `unseal`: replicas discarded, the seal cleared and the version bumped; then it acquires. One of a
tensor that is not sealed only acquires. -/
def unsealDone (s : State) (h : Nat) : State :=
  let p := partOf s (coreOf s.cur)
  let s1 := leaveSeal s h
  if h = 0 ∨ !(liveDesc s p h).sealed_ then finishIn s1 []
  else
    finishIn (putSeal { s1 with replicas := s1.replicas.filter fun r => !(r.part == p && r.handle == h) } p h false) []

/-- `unseal` (R185). -/
def execUnseal (h : Hdr) (x : FmtM) (s : State) : Out :=
  .next (effectOp s h (getOps s.th [(.s, x.opa)]) [] fun vs =>
    let k := (arg vs 0).word.toNat % 2 ^ 13
    sealDesc s k fun _ => holdLoads s fun _ =>
      let s1 := joinSeal s k
      if firstSeal s1 k && unsealReady s1 (partOf s (coreOf s.cur)) k then unsealDone s1 k else park s1 (.unseal k))

/-! ## Bit-network patterns (12 R240) -/

def execBnld (h : Hdr) (x : FmtS) (s : State) : Out :=
  .next (effectOp s h (getOps s.th [(.s, x.opa)]) [] fun vs =>
    let ea := (arg vs 0).word.toNat
    match flatLocs s s.cur ea 64 64 .load with
    | .error t => raise s t
    | .ok ls =>
      holdLoads s fun _ =>
        match readLocs s s.cur ls with
        | .error e => stopRead s (flatTrap 0x19 ea) e
        | .ok (ws, s0) =>
          let s1 := askFlat s0 s.cur ea
          let c := s1.core (coreOf s.cur)
          let bits := BitVec.ofNat 512 (joinVals ls ws)
          finishIn (s1.setCore (coreOf s.cur) { c with
            patterns := tput {} c.patterns (x.dst.toNat % 8) { bits, tag := (whoOf s s.cur).tag } }) [])

end Sys2Proof.Machine
end

