-- ==== Sys2Proof/Machine/QueueInstr.lean ====
section
/-! DEFINITION. Data-queue instructions (10 R192-R194; 12 R251): major 0x9. -/

namespace Sys2Proof.Machine

open Sys2Proof

/-- The queue a word names. -/
def qnOf (x : FmtQ) : Nat := x.qn.toNat

/-- The entries of a queue. -/
def entriesOf (s : State) (core q : Nat) : List Entry := tget (s.core core).queues q []
/-- The entries a thread may take: those that no record has reserved (12 R251). -/
def freeEntries (l : List Entry) : List Entry := l.filter fun e => e.taker.isNone

/-- Write a queue. -/
def setQueue (s : State) (core q : Nat) (l : List Entry) : State :=
  s.setCore core { s.core core with queues := tput [] (s.core core).queues q l }

/-- The data of an entry as its popper sees it (R192). -/
def entryData (s : State) (core : Nat) (w : Who) (e : Entry) : Vec := if sees s (.queue core) w e.tag then e.data else 0

/-- Every queue load that the access thread issued before entry `issue` has settled: entries leave in issue order (R195). -/
def settledBefore (s : State) (core issue : Nat) : Bool :=
  (s.core core).queues.all fun q => q.2.all fun e => e.filler.isSome || e.status == .ready || decide (issue ≤ e.issue)
/-- An entry may leave its queue. -/
def entryOut (s : State) (core : Nat) (e : Entry) : Bool := e.status == .ready && settledBefore s core e.issue
/-- It was ready before this cycle, as a pop takes it (R194). -/
def entryBefore (s : State) (core : Nat) (e : Entry) : Bool := entryOut s core e && decide (e.readied ≤ s.cycle)
/-- The entries of a queue have been counted in this cycle: a pop, before which they would be counted, comes later (R194). -/
def countedNow (s : State) (core q : Nat) : Bool := tget (s.core core).counts q 0 == s.cycle + 1

/-- The `n` oldest unreserved entries removed. -/
def dropFree : Nat → List Entry → List Entry
  | 0, l => l
  | _, [] => []
  | n + 1, e :: l => if e.taker.isNone then dropFree n l else e :: dropFree (n + 1) l

/-- An instruction of the execute thread that looks at `n` entries, ready before this cycle, and takes them where it `pops` (R194); a
poisoned one raises cause 0x19 (R192, 14 R292). A service core's thread is an execute thread. One that only looks sees what a `qcnt`
after it counts (DEDUCED, log 107). -/
def takeEntries (s : State) (q n : Nat) (pops : Bool) (f : List Entry → State) : State :=
  let core := coreOf s.cur
  let l := freeEntries (entriesOf s core q)
  if !isExe s.cur then raise s { cause := 0x22 }
  else if l.length < n || (l.take n).any (!entryBefore s core ·) || (pops && countedNow s core q) then park s (.qready q n)
  else
    match (l.take n).find? fun e => e.poison.isSome && sees s (.queue core) (whoOf s s.cur) e.tag with
    | some e => raise s { cause := match e.poison with | some k => poisonCause k | none => 0x19 }
    | none => f (l.take n)

/-- `qpush`: a ready entry of the access thread; waits while the queue is full. -/
def execQpush (h : Hdr) (x : FmtQ) (s : State) : Out :=
  .next (effectOp s h (getOps s.th [(.v, x.opa)]) [] fun vs =>
    let core := coreOf s.cur
    if isExe s.cur then raise s { cause := 0x22 }
    else if 16 ≤ queueLen s core (qnOf x) then park s (.qspace (qnOf x) 1)
    else finishIn (pushEntry s core (qnOf x) { data := (arg vs 0).vec 64, tag := (whoOf s s.cur).tag }) [])

def execQpop (h : Hdr) (x : FmtQ) (s : State) : Out :=
  .next (effectOp s h (.ok []) [.v 0] fun _ =>
    takeEntries s (qnOf x) 1 true fun l =>
      let core := coreOf s.cur
      let v := (l.head?.map (entryData s core (whoOf s s.cur))).getD 0
      finishIn (setQueue s core (qnOf x) (dropFree 1 (entriesOf s core (qnOf x)))) [.v v])

def execQpeek (h : Hdr) (x : FmtQ) (s : State) : Out :=
  .next (effectOp s h (.ok []) [.v 0] fun _ =>
    takeEntries s (qnOf x) (x.cnt.toNat + 1) false fun l =>
      finishIn s [.v ((l.getLast?.map (entryData s (coreOf s.cur) (whoOf s s.cur))).getD 0)])

/-- A thread counts an entry: the access thread, whose instructions push them, every one, and another those pushed before this cycle
(R194) (DEDUCED, log 107). -/
def countsEntry (s : State) (tid : Nat) (e : Entry) : Bool := !isExe tid || decide (e.pushed ≤ s.cycle)

/-- The word of a `qcnt`: the entries occupied, and those of them ready from the oldest up to the first pending one (R193, R194). -/
def countWord (s : State) (tid q : Nat) : Word :=
  let l := (entriesOf s (coreOf tid) q).filter (countsEntry s tid)
  BitVec.ofNat 64 (l.length % 32 + 2 ^ 8 * ((l.takeWhile fun e => e.status == .ready).length % 32))

/-- `qcnt`. The queue has been counted in this cycle if it is enabled. -/
def execQcnt (h : Hdr) (x : FmtQ) (s : State) : Out :=
  let core := coreOf s.cur
  let q := qnOf x
  .next (match onThread s.th h 1 (.ok []) [.s 0] fun _ => ([.s (countWord s s.cur q)], 0) with
    | .error c => raise s c
    | .ok t =>
      let s1 := s.setTh t
      if enabled s.th h then s1.setCore core { s1.core core with counts := tput 0 (s1.core core).counts q (s.cycle + 1) } else s1)

def execQdrop (h : Hdr) (x : FmtQ) (s : State) : Out :=
  .next (effectOp s h (.ok []) [] fun _ =>
    takeEntries s (qnOf x) x.cnt.toNat true fun _ =>
      let core := coreOf s.cur
      finishIn (setQueue s core (qnOf x) (dropFree x.cnt.toNat (entriesOf s core (qnOf x)))) [])

end Sys2Proof.Machine
end

