-- ==== Sys2Proof/Machine/SyncInstr.lean ====
section
/-! DEFINITION. Atomics, fences, barriers, flags and events (10 R198-R208; 08 R161-R169; 11 R217): major 0xA. -/

namespace Sys2Proof.Machine

open Sys2Proof

/-! ## Atomics (R198-R200) -/

/-- The end of an atomic: the old value as its type is written, with its flags (R76, R198). -/
def amoFinish (s : State) (x : FmtY) (ty : Ty) (old : Word) (fl : Flags) : State :=
  finishOrder s x.ord.toNat x.scp.toNat [.s (scalarOf ty old.toNat)] fl

/-- An atomic is performed at once if its home is its die and it may be, and is on its way otherwise (R199) (DEDUCED, log 16). -/
def amoIssue (s : State) (x : FmtY) (r : AmoReq) : State :=
  let src := dieOf (coreOf s.cur)
  if homeOf s r.place.store r.place.addr = src ∧ amoReady s s.cur r then
    match amoPerform s s.cur r with
    | .error k => raise s { r.trap with cause := k }
    | .ok (old, fl, s1) => amoFinish s1 x r.ty old fl
  else park s (.amo r)

/-- An atomic of the current thread on the locations of a flat address. -/
def amoReq (s : State) (op : AmoOp) (ty : Ty) (ls : List Loc) (ea : Nat) (b c : Word) : AmoReq :=
  { op, ty, place := ((ls.head?).map (·.1)).getD { store := .host, addr := 0 }, parts := if ls.length = 1 then [] else ls.map (·.1),
    b, c, tag := (whoOf s s.cur).tag, trap := flatTrap 0x19 ea }

/-- An atomic of operands `b` and `c` (R198) (DEDUCED, log 20). -/
def amoOp (s : State) (h : Hdr) (x : FmtY) (op : AmoOp) (n : Nat) : State :=
  let ty := (tyOf x.typ).getD .i64
  afterFirst s fun _ =>
    effectOp s h (getOps s.th ((fieldsA { opa := x.opa, opb := x.opb, opc := x.opc, clp := 0, scl := 0, typ := 0 } n).map
        fun o => (Need.s, o))) [.s 0] fun vs =>
      match s.th.status with
      | .waiting (.amoDone old fl) => amoFinish s x ty old fl
      | .waiting (.amo _) => s
      | _ =>
        let ea := (arg vs 0).word.toNat
        match flatLocs s s.cur ea (ty.width / 8) (ty.width / 8) .atomic with
        | .error t => raise s t
        | .ok ls =>
          holdLoads s fun _ =>
            withOrder s x.ord.toNat x.scp.toNat fun _ =>
              amoIssue (askFlat s s.cur ea) x (amoReq s op ty ls ea (arg vs 1).word (arg vs 2).word)

def execAmoAdd (h : Hdr) (x : FmtY) (s : State) : Out := .next (amoOp s h x .add 2)
def execAmoMin (h : Hdr) (x : FmtY) (s : State) : Out := .next (amoOp s h x .min 2)
def execAmoMax (h : Hdr) (x : FmtY) (s : State) : Out := .next (amoOp s h x .max 2)
def execAmoAnd (h : Hdr) (x : FmtY) (s : State) : Out := .next (amoOp s h x .and_ 2)
def execAmoOr (h : Hdr) (x : FmtY) (s : State) : Out := .next (amoOp s h x .or_ 2)
def execAmoXor (h : Hdr) (x : FmtY) (s : State) : Out := .next (amoOp s h x .xor_ 2)
def execAmoSwap (h : Hdr) (x : FmtY) (s : State) : Out := .next (amoOp s h x .swap 2)
def execAmoCas (h : Hdr) (x : FmtY) (s : State) : Out := .next (amoOp s h x .cas 3)
def execAmoFadd (h : Hdr) (x : FmtY) (s : State) : Out := .next (amoOp s h x .fadd 2)
def execAmoMadd (h : Hdr) (x : FmtY) (s : State) : Out := .next (amoOp s h x .madd 3)

/-! ## Fence (R201) -/

def execFence (h : Hdr) (x : FmtY) (s : State) : Out :=
  .next (effectOp s h (.ok []) [] fun _ =>
    holdLoads s fun _ => lostGate s x.scp.toNat fun _ => withOrder s x.ord.toNat x.scp.toNat fun _ => finishIn s [])

/-! ## Barriers (R202, R203, R217; 08 R167; 13 R274) -/

/-- The cores of the domain of a core at a level: 2 group, 3 die, 4 package, 5 job (R217) (DEDUCED, log 39). -/
def membersOf (s : State) (core level : Nat) : List Nat :=
  match launchOf s core with
  | none => [core]
  | some l =>
    if level = 2 then l.cores.filter fun c => groupOf c == groupOf core
    else if level = 3 then l.cores.filter fun c => dieOf c == dieOf core
    else if level = 4 ∨ l.jobn = 0 then l.cores
    else
      let jobs := (s.part (partOf s core)).launches.filter fun m =>
        m.status == .running && m.job == l.job && m.jobn != 0
      (List.range 256).filter fun c => jobs.any fun m => m.cores.contains c

/-- The number of a thread's current `sync` of a level. -/
def syncNumber (t : Thread) (level : Nat) : Nat := tget t.syncs level 0 + 1

/-- A thread's arrival at its `n`-th `sync` of a level is recorded (R203). -/
def arrivedAt (s : State) (p level tid n : Nat) : Bool := (s.part p).arrivals.contains { level, tid, n }

/-- A core has arrived at the `n`-th `sync` of a level (R217). -/
def coreArrived (s : State) (p level n core : Nat) : Bool :=
  let ts := [2 * core, 2 * core + 1]
  let past := ts.any fun t => decide (n ≤ tget (s.thread t).syncs level 0)
  let gone := fun t => (s.thread t).status == .done || (s.thread t).fin
  past || ((ts.all fun t => gone t || arrivedAt s p level t n) && ts.any fun t => !gone t)

/-- A member of the core's job ended its launch without reaching the `n`-th job-level `sync` that others wait in (R202) (DEDUCED, log 39). -/
def barrierStuck (s : State) (core level n : Nat) : Bool :=
  level == 5 && (match launchOf s core with
    | some l => l.jobn != 0 && (s.part (partOf s core)).stuckSyncs.contains (l.job, n)
    | none => false)

/-- Copy records and markers of a core that have not completed (08 R167, 09 R177). -/
def openCopies (c : Core) : List Nat :=
  ((c.copyQ.filter fun r => r.op != .note) ++ (c.matQ ++ c.copyQ ++ c.collQ).filter fun r => r.op == .note).map (·.id)

/-- Nothing that either thread of a core issued is still to be seen at a level: its writes are applied, at job level
acknowledged, and its copies and markers have completed (08 R167, R169, 09 R177). -/
def coreQuiet (s : State) (level core : Nat) : Bool :=
  (openCopies (s.core core)).isEmpty && s.writes.all fun w =>
    coreOf w.tid != core || w.lost || (w.applied && level != 5) || tagPart w.tag != partOf s core

/-- The core's part of the `n`-th barrier is done: it has passed it, or has arrived with nothing of its own outstanding
(DEDUCED, log 39). -/
def coreReady (s : State) (p level n core : Nat) : Bool :=
  ([2 * core, 2 * core + 1].any fun t => decide (n ≤ tget (s.thread t).syncs level 0))
    || (coreArrived s p level n core && coreQuiet s level core)

/-- The members of a level that this package holds are all that DOMAIN names: at job level, JOBN of them (R217). -/
def membersHere (s : State) (core level : Nat) : Bool :=
  level != 5 || (match launchOf s core with
    | some l => l.jobn == 0 || (membersOf s core level).length == l.jobn
    | none => true)

/-- Every member has arrived. -/
def barrierFull (s : State) (core level n : Nat) : Bool :=
  !barrierStuck s core level n && membersHere s core level && (membersOf s core level).all (coreReady s (partOf s core) level n)

/-- Record an arrival, once. -/
def arrive (s : State) (p level tid n : Nat) : State :=
  if arrivedAt s p level tid n then s
  else s.setPart p { s.part p with arrivals := (s.part p).arrivals ++ [{ level, tid, n }] }

/-- A core's descriptor cache is refreshed (13 R274) (DESIGN CHOICE, log 61). -/
def refresh (s : State) (v : Tab Memory) (core : Nat) : State := s.setCore core { s.core core with view := some v, unseen := [] }

/-- The writes that members had observed count as observed on a core's die (08 R160, R167). -/
def observeMembers (s : State) (core level : Nat) : State :=
  let d := dieOf core
  s.setDie d { s.die d with
    clock := (membersOf s core level).foldl (fun k c => clockMax k (s.die (dieOf c)).clock) (s.die d).clock }

/-- A thread returns from its `sync` of a level: acquire, and the next word. -/
def syncReturn (s : State) (tid level : Nat) : State :=
  let s1 := observeMembers s (coreOf tid) level
  let t := s1.thread tid
  s1.setThread tid (finishThread { t with syncs := tput 0 t.syncs level (syncNumber t level) } [] 0)

/-- A thread waits at the `n`-th `sync` of a level. -/
def waitsSync (s : State) (level n tid : Nat) : Bool :=
  match (s.thread tid).status with
  | .waiting (.sync l) => l == level && syncNumber (s.thread tid) level == n
  | _ => false

/-- The `n`-th barrier of a level completes: the descriptor caches of all its members are refreshed as of this instant, and
every thread that waits in it returns (R202; 13 R274). -/
def syncRelease (s : State) (core level n : Nat) : State :=
  let ms := membersOf s core level
  let v := viewNow s
  let ts := (ms.flatMap fun c => [2 * c, 2 * c + 1]).filter (waitsSync s level n)
  ts.foldl (fun s t => syncReturn s t level) (ms.foldl (fun s c => refresh s v c) s)

/-- The `n`-th barrier of a level has completed: some member has returned from it. -/
def barrierPast (s : State) (core level n : Nat) : Bool :=
  (membersOf s core level).any fun c => [2 * c, 2 * c + 1].any fun t => decide (n ≤ tget (s.thread t).syncs level 0)

/-- A member arrives and waits; the last arrival completes the barrier (R202). One stopped in a barrier that has completed
since returns from it. A thread of no launch is the only member (02 R357). -/
def syncArrive (s : State) (level : Nat) : State :=
  let core := coreOf s.cur
  let p := partOf s core
  let n := syncNumber s.th level
  if (launchOf s core).isNone then syncReturn (refresh s (viewNow s) core) s.cur level
  else
    let s1 := park (arrive s p level s.cur n) (.sync level)
    if barrierPast s1 core level n then syncReturn s1 s.cur level
    else if barrierFull s1 core level n then syncRelease s1 core level n else s1

/-- A member's `sync` waits for its copies and markers issued before it (08 R167, 09 R177) (DEDUCED, log 39). -/
def ownCopies (s : State) : List Nat := openCopies (s.core (coreOf s.cur))

/-- A `sync` goes on once they have completed. -/
def copiesDone (s : State) (f : Unit → State) : State :=
  let now := ownCopies s
  match s.th.status with
  | .waiting (.copies l) => if (l.filter now.contains).isEmpty then f () else s
  | .waiting (.order _ _) => f ()
  | _ => if now.isEmpty then f () else park s (.copies now)

/-- `sync`: the loads of an access thread and its copies first, then the release, applied and not only exposed whatever
the level (08 R167), then the barrier. -/
def execSync (h : Hdr) (x : FmtY) (s : State) : Out :=
  let level := x.scp.toNat
  .next (effectOp s h (.ok []) [] fun _ =>
    holdLoads s fun _ =>
      match s.th.status with
      | .waiting (.sync _) => syncArrive s level
      | _ => copiesDone s fun _ => withOrder s 2 (max 3 level) fun _ => syncArrive s level)

/-! ## Flags (R204-R206) -/

/-- A flag write of a die not yet applied that touches a flag. -/
def touchesFlag (w : Write) (p g i : Nat) : Bool :=
  match w.op with
  | .flagSet g' i' _ | .flagInc g' i' _ => tagPart w.tag == p && g' == g && i' == i
  | _ => false

/-- The flag as the thread's die reads it: an exposed set of the die, else the home; or what it waits for (R157, R158). -/
def flagRead (s : State) (tid g i : Nat) : Except ReadStop (BitVec 32) :=
  let w := whoOf s tid
  let p := tagPart w.tag
  let ws := (unapplied s (dieOf (coreOf tid))).filter fun x => touchesFlag x p g i
  let own := ws.filter fun x => !x.exposed && x.tid == tid
  if !own.isEmpty then .error (.wait (.applied (own.map (·.seq))))
  else
    match newestOf (ws.filter (·.exposed)) with
    | some x => .ok (match x.op with | .flagSet _ _ v => if sees s (.flags g) w x.tag then v else 0 | _ => 0)
    | none =>
      if (flagAt s p g i).poison && sees s (.flags g) w (flagAt s p g i).tag then .error (.cause 0x19)
      else .ok (flagValue s w g i)

/-- The group a flag instruction addresses, or cause 0x15 (R205; 02 R357: a service core has no group of its own). -/
def flagGroup (s : State) (x : FmtY) (opa : Word) : Option Nat :=
  let core := coreOf s.cur
  let rmt := x.opc.getLsbD 8
  let g := if rmt then opa.toNat % 64 else groupOf core
  if !rmt && isSvc core then none
  else if flagFile s (partOf s core) g = .none then none else some g

/-- Flag index or event bit: IDX8 (R62). -/
def idx8 (x : FmtY) : Nat := (x.opc.extractLsb' 0 8).toNat

/-- The operands of a flag instruction: the group when RMT is 1, the value when IMM7 is 0. -/
def flagOps (x : FmtY) (value : Bool) : List (Need × OpField) :=
  (if x.opc.getLsbD 8 then [(Need.s, x.opa)] else []) ++ (if value && x.typ = 0 then [(Need.s, x.opb)] else [])

/-- The value v (R204). -/
def flagV (x : FmtY) (vs : List Val) : BitVec 32 :=
  if x.typ = 0 then ((vs.getLast?.map Val.word).getD 0).extractLsb' 0 32 else x.typ.zeroExtend 32

/-- A flag instruction on the flag of its group, or cause 0x15 (DESIGN CHOICE, log 27). -/
def flagOp (s : State) (h : Hdr) (x : FmtY) (value : Bool) (zeros : List Val) (f : Nat → List Val → State) : State :=
  afterFirst s fun _ =>
    effectOp s h (getOps s.th (flagOps x value)) zeros fun vs =>
      match flagGroup s x (arg vs 0).word with
      | none => raise s { cause := 0x15 }
      | some g => f g vs

/-- A flag or event write goes out in order (R157, R204). One that is lost has neither a flat address nor a handle to report: KIND and
INFO of its cause 0x1A are 0 (DESIGN CHOICE, log 99). -/
def issueOp (s : State) (x : FmtY) (op : WrOp) (mca : Bool) : State :=
  holdLoads s fun _ =>
    withOrder s x.ord.toNat x.scp.toNat fun _ =>
      finishOrder (issueWrite s (whoOf s s.cur) s.cur op mca 0 { cause := 0x1A }) x.ord.toNat x.scp.toNat []

/-- An increment under an order that acquires ends once it has been performed at its home (R162, R204). -/
def issueInc (s : State) (x : FmtY) (op : WrOp) : State :=
  if x.ord.toNat ≠ 1 ∧ x.ord.toNat ≠ 3 then issueOp s x op true
  else
    holdLoads s fun _ =>
      withOrder s x.ord.toNat x.scp.toNat fun _ =>
        let d := dieOf (coreOf s.cur)
        let s1 := issueWrite s (whoOf s s.cur) s.cur op true 0 { cause := 0x1A }
        if writesDone s1 d [nextSeq s d] then finishIn s1 [] else park s1 (.performed [nextSeq s d])

/-- A flag of the thread's own die is poisoned for it: its increment reads lost data (14 R292). -/
def fincLost (s : State) (g i : Nat) : Bool :=
  let w := whoOf s s.cur
  let f := flagAt s (tagPart w.tag) g i
  g / 16 == dieOf (coreOf s.cur) && f.poison && sees s (.flags g) w f.tag

/-- An increment of a poisoned flag takes cause 0x19 where the flag is the die's own; one on its way to another die leaves
the flag poisoned (DEDUCED, log 40). -/
def execFinc (h : Hdr) (x : FmtY) (s : State) : Out :=
  .next (flagOp s h x true [] fun g vs =>
    if fincLost s g (idx8 x) then raise s { cause := 0x19 }
    else issueInc s x (.flagInc g (idx8 x) (flagV x vs)))
def execFset (h : Hdr) (x : FmtY) (s : State) : Out :=
  .next (flagOp s h x true [] fun g vs => issueOp s x (.flagSet g (idx8 x) (flagV x vs)) (x.mca == 1))

/-- The flag has reached `v`, counting forward around 2^32 (R204). -/
def flagReached (f v : BitVec 32) : Bool := decide ((f - v).toNat < 2 ^ 31)

/-- The end of a wait on a flag or an event homed on die `home`, under the order of its access (R206, R207). -/
def waitEnd (s : State) (ord scope home : Nat) : State :=
  finishOrder (observe s (dieOf (coreOf s.cur)) home) ord scope []

/-- What a wait that begins now meets: a cause or another wait, a condition that has held since before this cycle, or one that is
tested as the cycle ends (R206, R207). -/
def waitOn (s : State) (x : FmtY) (home : Nat) (now : Except ReadStop Bool) (w : Wait) : State :=
  match now with
  | .error e => stopRead s { cause := 0x19 } e
  | .ok b => if b then waitEnd s x.ord.toNat x.scp.toNat home else park s w

/-- The thread waits for a flag or an event: only the end of a cycle ends that. -/
def waitsCond (t : Thread) : Bool :=
  match t.status with
  | .waiting (.flag _ _ _ _ _) | .waiting (.event _ _ _) => true
  | _ => false

/-- No operation has reached the flag, or the event bit, in this cycle. -/
def flagStill (s : State) (p g i : Nat) : Bool := decide ((flagAt s p g i).moved ≤ s.cycle)
def eventStill (s : State) (p i : Nat) : Bool := decide ((tget (s.part p).events i {}).moved ≤ s.cycle)

/-- `fwait` waits until the flag has reached v. Where it has since before this cycle the wait ends at once; a condition that becomes
true in a cycle ends it at the end of that cycle, by the value the flag then has (R206) (DEDUCED, log 100). -/
def execFwait (h : Hdr) (x : FmtY) (s : State) : Out :=
  .next (flagOp s h x true [] fun g vs =>
    if waitsCond s.th then s
    else
      holdLoads s fun _ =>
        withOrder s x.ord.toNat x.scp.toNat fun _ =>
          let v := flagV x vs
          waitOn s x (g / 16)
            ((flagRead s s.cur g (idx8 x)).map fun f => flagReached f v && flagStill s (partOf s (coreOf s.cur)) g (idx8 x))
            (.flag g (idx8 x) v x.ord.toNat x.scp.toNat))

def execFget (h : Hdr) (x : FmtY) (s : State) : Out :=
  .next (flagOp s h x false [.s 0] fun g _ =>
    withOrder s x.ord.toNat x.scp.toNat fun _ =>
      match flagRead s s.cur g (idx8 x) with
      | .error e => stopRead s { cause := 0x19 } e
      | .ok f =>
        finishOrder (observe s (dieOf (coreOf s.cur)) (g / 16)) x.ord.toNat x.scp.toNat [.s (f.zeroExtend 64)])

/-! ## Events (R207) -/

/-- The event bit as the thread's die reads it, or what it waits for. -/
def eventRead (s : State) (tid i : Nat) : Except ReadStop Bool :=
  let who := whoOf s tid
  let p := tagPart who.tag
  let ws := (unapplied s (dieOf (coreOf tid))).filter fun w =>
    match w.op with
    | .event p' i' _ => p' == p && i' == i
    | _ => false
  let own := ws.filter fun x => !x.exposed && x.tid == tid
  if !own.isEmpty then .error (.wait (.applied (own.map (·.seq))))
  else
    match newestOf (ws.filter (·.exposed)) with
    | some x => .ok (match x.op with | .event _ _ v => v && sees s .events who x.tag | _ => false)
    | none => .ok (eventSeen s who p i)

def execEvset (h : Hdr) (x : FmtY) (s : State) : Out :=
  .next (afterFirst s fun _ => effectOp s h (.ok []) [] fun _ =>
    issueOp s x (.event (partOf s (coreOf s.cur)) (idx8 x) true) (x.mca == 1))
def execEvclr (h : Hdr) (x : FmtY) (s : State) : Out :=
  .next (afterFirst s fun _ => effectOp s h (.ok []) [] fun _ =>
    issueOp s x (.event (partOf s (coreOf s.cur)) (idx8 x) false) (x.mca == 1))
/-- `evwait` waits until the bit is 1. One whose bit has been 1 since before this cycle ends at once, any other with a cycle at whose
end the bit is 1 (R207) (DEDUCED, log 100). -/
def execEvwait (h : Hdr) (x : FmtY) (s : State) : Out :=
  .next (afterFirst s fun _ => effectOp s h (.ok []) [] fun _ =>
    if waitsCond s.th then s
    else
      holdLoads s fun _ =>
        withOrder s x.ord.toNat x.scp.toNat fun _ =>
          waitOn s x 0
            ((eventRead s s.cur (idx8 x)).map fun b => b && eventStill s (partOf s (coreOf s.cur)) (idx8 x))
            (.event (idx8 x) x.ord.toNat x.scp.toNat))

end Sys2Proof.Machine
end

