-- ==== Sys2Proof/Machine/TensorInstr.lean ====
section
/-! DEFINITION. Tensor memory instructions (10 R186-R191): major 0x8. -/

namespace Sys2Proof.Machine

open Sys2Proof

/-- The places of the active lanes, each with its lane number, or the first cause of R180 over all of them (R188). -/
def lanePlaces : List (Nat × Except Trap Place) → Except Trap (List (Nat × Place))
  | [] => .ok []
  | (i, r) :: l =>
    match r, lanePlaces l with
    | .ok p, .ok ps => .ok ((i, p) :: ps)
    | .error a, .ok _ => .error a
    | .ok _, .error b => .error b
    | .error a, .error b => .error (if causeRank a.cause ≤ causeRank b.cause then a else b)

/-- A tensor access of the current thread: its handle, descriptor, lane width and lanes. -/
structure TAcc where
  h : Nat
  d : Desc
  w : Nat
  n : Nat
deriving DecidableEq, Repr

/-- Handle 0 has type n8 whatever its table says (R191). -/
def tAcc (s : State) (hnd : BitVec 13) : TAcc :=
  let core := coreOf s.cur
  let h := hnd.toNat
  let d : Desc := coreDesc s core h
  let w := if h = 0 ∨ d.rank = 0 then 8 else d.ty.width
  { h, d, w, n := 4096 / w }

/-- Coordinates of OPA and OPB (R186, R191). -/
def tCoords (a : TAcc) (c01 c23 : Word) : List Nat :=
  if a.h = 0 then [c01.toNat, 0, 0, 0]
  else [c01.toNat % 2 ^ 32, c01.toNat / 2 ^ 32, c23.toNat % 2 ^ 32, c23.toNat / 2 ^ 32]

/-- What a fault at these coordinates reports (14 R281, R282): handle 0 is a tensor of flat addresses, and reports its flat address
(DESIGN CHOICE, log 97). -/
def tTrap (a : TAcc) (cause : Nat) (c : List Nat) : Trap :=
  if a.h = 0 then flatTrap cause (c.getD 0 0) else tensorTrap cause a.h c

/-- Extent 0 of the tensor. -/
def tExt (a : TAcc) : Nat := if a.h = 0 then 0xF00000000000 else a.d.ext.getD 0 1

/-- The coordinate checks of R186 and R191 on one element, or the report of a descriptor whose data is lost, before its extents are
looked at (14 R292). -/
def tCheck (s : State) (a : TAcc) (c : List Nat) (c23 : Word) : Option Trap :=
  let core := coreOf s.cur
  if a.h = 0 ∧ 0xF00000000000 ≤ c.getD 0 0 then some (tTrap a 0x15 c)
  else if a.h = 0 ∧ c23 ≠ 0 then some (tTrap a 0x13 c)
  else
    match descPoison s (s.core core).view (partOf s core) a.h with
    | some l => some { tTrap a 0x19 c with errAt := some l }
    | none =>
      if a.h = 0 then (if a.d.rank = 0 ∧ partOf s core ≠ 0 then some (tTrap a 0x13 c) else none)
      else if coordsOk a.d c then none else some (tTrap a 0x13 c)

/-- The place of an element (R188). -/
def tPlace (s : State) (a : TAcc) (c : List Nat) (acc : Acc) : Except Trap Place :=
  let core := coreOf s.cur
  let p := partOf s core
  elemPlace s core p (tagOf s p) a.d a.h c acc (tTrap a 0x13 c)

/-- The coordinates of lane `i` of a run from `c`. -/
def runAt (c : List Nat) (i : Nat) : List Nat := c.set 0 (c.getD 0 0 + i)

/-- The run of lanes from `c` that are active, with their places (R187, R188). The box that R186 asks the shard map to cover is
that of the active lanes: one the guard disables is not looked up (DESIGN CHOICE, log 98). -/
def tRun (s : State) (a : TAcc) (c : List Nat) (c23 : Word) (acc : Acc) (act : Nat → Bool) :
    Except Trap (List (Nat × Place)) :=
  match tCheck s a c c23 with
  | some t => .error t
  | none =>
    let lanes := (List.range a.n).filter fun i => act i && decide (c.getD 0 0 + i < tExt a)
    lanePlaces (lanes.map fun i => (i, tPlace s a (runAt c i) acc))

/-- The lane value of a vector at width `w`. -/
def laneOf (a : TAcc) (v : Val) (i : Nat) : Nat := lane a.w (v.vec a.w) i

/-- The vector of the lanes read: lane number and value. -/
def lanesVec (a : TAcc) (l : List (Nat × Nat)) : Vec :=
  BitVec.ofNat 4096 (l.foldl (fun n x => n ||| (x.2 % 2 ^ a.w * 2 ^ (a.w * x.1))) 0)

/-- The walks of a tensor access, each entry once. -/
def tWalks (s : State) (a : TAcc) (cs : List (List Nat)) : State :=
  let core := coreOf s.cur
  let p := partOf s core
  askWalk s core (tagOf s p) (cs.flatMap (missWalk s core p (tagOf s p) a.d a.h)).eraseDups

/-- A tensor load of the places found (R155). Poison met by any of its reads is reported with the coordinates `c` of the access,
not of the lane (DESIGN CHOICE, log 82). -/
def tLoad (s : State) (a : TAcc) (c : List Nat) (at_ : Nat → List Nat) (r : Except Trap (List (Nat × Place))) : State :=
  match r with
  | .error t => raise s t
  | .ok ps =>
    match readLocs s s.cur (ps.map fun p => (p.2, a.w)) with
    | .error e => stopRead s (tTrap a 0x19 c) e
    | .ok (vs, s1) => finishIn (tWalks s1 a (ps.map fun p => at_ p.1)) [.v (lanesVec a ((ps.map (·.1)).zip vs))]

/-- A tensor store of the places found, each lane with the coordinates a loss of it reports; `join` when neighbouring
lanes are one write of their line. -/
def tStore (s : State) (a : TAcc) (x : FmtT) (join : Bool) (at_ : Nat → List Nat) (d : Val)
    (r : Except Trap (List (Nat × Place))) : State :=
  match r with
  | .error t => raise s t
  | .ok ps =>
    holdLoads s fun _ =>
      finishIn (writeLocs (tWalks s a (ps.map fun p => at_ p.1)) s.cur (x.mca == 1) a.h join
        (ps.map fun p => ((p.2, a.w), laneOf a d p.1, tTrap a 0x1A (at_ p.1)))) []

def execTld (h : Hdr) (x : FmtT) (s : State) : Out :=
  let a := tAcc s x.hnd
  .next (effectLanes s h a.n (getOps s.th [(.s, x.opa), (.s, x.opb)]) [.v 0] fun vs =>
    let c23 := (arg vs 1).word
    let c := tCoords a (arg vs 0).word c23
    tLoad s a c (runAt c) (tRun s a c c23 .load fun i => enabledAt s.th h i))

def execTst (h : Hdr) (x : FmtT) (s : State) : Out :=
  let a := tAcc s x.hnd
  .next (effectLanes s h a.n (getOps s.th [(.s, x.opa), (.s, x.opb), (.v, x.opc)]) [] fun vs =>
    let c23 := (arg vs 1).word
    let c := tCoords a (arg vs 0).word c23
    tStore s a x true (runAt c) (arg vs 2) (tRun s a c c23 .store fun i => enabledAt s.th h i))

def execTldq (h : Hdr) (x : FmtT) (s : State) : Out :=
  let a := tAcc s x.hnd
  .next (effectOp s h (getOps s.th [(.s, x.opa), (.s, x.opb)]) [] fun vs =>
    let c23 := (arg vs 1).word
    let c := tCoords a (arg vs 0).word c23
    match tRun s a c c23 .load fun _ => true with
    | .error t => queueFault s (x.opc.extractLsb' 0 3).toNat 0 t
    | .ok ps =>
      queueLoad s (x.opc.extractLsb' 0 3).toNat 0 0 (tTrap a 0x19 c) (fun s => tWalks s a (ps.map fun p => runAt c p.1))
        (lanesOfLocs (ps.map fun p => (a.w * p.1, (p.2, a.w)))))

/-- The coordinates of coordinate lane `j` (R189). -/
def gatherCoords (a : TAcc) (cv : Val) (c23 : Word) (j : Nat) : List Nat :=
  tCoords a (BitVec.ofNat 64 (lane 64 (cv.vec 64) j)) c23

/-- The enabled lanes of a gather or scatter, each checked under R186 (R189). -/
def tScattered (s : State) (h : Hdr) (a : TAcc) (cv : Val) (c23 : Word) (acc : Acc) :
    Except Trap (List (Nat × Place)) :=
  let lanes := (List.range 64).filter fun j => enabledAt s.th h j
  lanePlaces (lanes.map fun j =>
    let c := gatherCoords a cv c23 j
    (j, match tCheck s a c c23 with
      | some t => .error t
      | none => tPlace s a c acc))

/-- `tgat` (R189). Its coordinates in a report of poison are those of lane 0, enabled or not (DESIGN CHOICE, log 82). -/
def execTgat (h : Hdr) (x : FmtT) (s : State) : Out :=
  let a := tAcc s x.hnd
  .next (effectLanes s h 64 (getOps s.th [(.v, x.opa), (.s, x.opb)]) [.v 0] fun vs =>
    let c23 := (arg vs 1).word
    tLoad s a (gatherCoords a (arg vs 0) c23 0) (gatherCoords a (arg vs 0) c23) (tScattered s h a (arg vs 0) c23 .load))

def execTsct (h : Hdr) (x : FmtT) (s : State) : Out :=
  let a := tAcc s x.hnd
  .next (effectLanes s h 64 (getOps s.th [(.v, x.opa), (.s, x.opb), (.v, x.opc)]) [] fun vs =>
    let c23 := (arg vs 1).word
    tStore s a x false (gatherCoords a (arg vs 0) c23) (arg vs 2) (tScattered s h a (arg vs 0) c23 .store))

/-- The type code of R69. -/
def tyCode : Ty → Nat
  | .i4 => 0x00 | .n4 => 0x01 | .i8 => 0x02 | .n8 => 0x03 | .i16 => 0x04 | .n16 => 0x05 | .i32 => 0x06 | .n32 => 0x07
  | .i64 => 0x08 | .n64 => 0x09 | .m64 => 0x0C | .f16 => 0x10 | .bf16 => 0x11 | .f32 => 0x12
  | .mx4 => 0x20 | .mx6 => 0x21 | .mx8 => 0x22 | .mx10 => 0x23 | .mx12 => 0x24 | .mx14 => 0x25 | .mx16 => 0x26

/-- Fact `k` of a descriptor (R190). -/
def tFact (d : Desc) (k : Nat) : Word :=
  if 8 < k then BitVec.allOnes 64
  else if d.rank = 0 then 0
  else
    BitVec.ofNat 64 (match k with
      | 0 => d.rank
      | 1 => tyCode d.ty
      | 6 => d.version
      | 7 => if d.sealed_ then 1 else 0
      | 8 => (if d.r then 1 else 0) + (if d.w then 2 else 0) + (if d.x then 4 else 0)
      | _ => if k - 2 < d.rank then d.ext.getD (k - 2) 1 else 1)

/-- `tinfo`; one that is enabled and names a descriptor whose data is lost takes cause 0x19 (14 R292). -/
def execTinfo (h : Hdr) (x : FmtT) (s : State) : Out :=
  let core := coreOf s.cur
  .next (match onThread s.th h 1 (getOps s.th [(.s, x.opa)]) [.s 0] fun vs =>
      ([.s (tFact (coreDesc s core x.hnd.toNat) (arg vs 0).word.toNat)], 0) with
    | .error c => raise s c
    | .ok t =>
      match enabled s.th h, descPoison s (s.core core).view (partOf s core) x.hnd.toNat with
      | true, some l => raise s { tensorTrap 0x19 x.hnd.toNat [] with errAt := some l }
      | _, _ => s.setTh t)

end Sys2Proof.Machine
end

