-- ==== Sys2Proof/Machine/Records.lean ====
section
/-! DEFINITION. Engine records: their descriptors, ranges and issue (04 R65-R67; 07 R137-R139, R146; 11 R219-R221;
12 R243, R244, R250, R251, R259): major 0xC. -/

namespace Sys2Proof.Machine

open Sys2Proof

/-! ## Descriptors of a record (R65-R67) -/

/-- Descriptor D0, D1 or D2 after its override. -/
structure RDesc where
  space : Nat
  /-- Type code of AUX11, 0x7F untyped. -/
  typ : Nat
  unit : Nat
  base : Nat
  strides : List Int
  first : Word
  second : Word
  /-- A reserved bit is set, or a bit outside the fields of a BASE that is not overridden. -/
  resv : Bool
  /-- An overridden BASE has a bit outside its fields. -/
  ovBad : Bool
  handle : Nat
  coords : List Nat
deriving DecidableEq, Repr

/-- The BASE fields of a space (R66). -/
def baseMask (space : Nat) : Nat :=
  match space with
  | 1 => 0x7FFFF | 2 => 0x3F7FFFF | 3 => 0xFF7FFFF | 4 => 0x7FFFFFF | 5 => 0x37FFFFFF | 6 => 0xFFFFF | 9 => 7
  | _ => 2 ^ 48 - 1

/-- The offset bits of a BASE. -/
def offMask (space : Nat) : Nat :=
  match space with
  | 1 | 2 | 3 => 0x7FFFF | 4 | 5 => 0x7FFFFFF | 6 => 0xFFFF | 9 => 0
  | _ => 2 ^ 48 - 1

/-- Bits of `x` outside a mask. -/
def outside (x mask : Nat) : Bool := (BitVec.ofNat 64 x &&& ~~~(BitVec.ofNat 64 mask)) != 0

/-- A descriptor from its two words, and the override's scalar if it has one. A bit set in AUX11[49:48], and stride unit 3,
are reserved bits that give reason 0x05 as the record starts: R66 names no cause of them (DESIGN CHOICE, log 78). -/
def rdescOf (w0 w1 : Word) (ov : Option Word) : RDesc :=
  let sp := (w0.extractLsb' 59 5).toNat
  let b := (w0.extractLsb' 0 48).toNat
  let aux := (w0.extractLsb' 48 2) != 0
  let strides := (List.range 4).map fun k => (w1.extractLsb' (16 * k) 16).toInt
  let typ := (w0.extractLsb' 52 7).toNat
  let unit := (w0.extractLsb' 50 2).toNat
  if sp = 7 then
    let h := b / 2 ^ 35
    let lo := b % 2 ^ 16
    let hi := b / 2 ^ 16 % 2 ^ 16
    let resv := aux || (ov.isNone && b / 2 ^ 32 % 8 != 0)
    match ov with
    | some v =>
      if h = 0 then
        { space := sp, typ, unit, base := b, strides, first := w0, second := w1, resv,
          ovBad := v.toNat / 2 ^ 48 != 0, handle := h, coords := [v.toNat % 2 ^ 48, 0, 0, 0] }
      else
        { space := sp, typ, unit, base := b, strides, first := w0, second := w1, resv, ovBad := false, handle := h,
          coords := [v.toNat % 2 ^ 32, v.toNat / 2 ^ 32, lo, hi] }
    | none =>
      { space := sp, typ, unit, base := b, strides, first := w0, second := w1, resv, ovBad := false, handle := h,
        coords := if h = 0 then [b % 2 ^ 32, 0, 0, 0] else [lo, hi, 0, 0] }
  else
    let base := match ov with | some v => v.toNat % 2 ^ 48 | none => b
    let out := outside base (baseMask sp)
    { space := sp, typ, unit, base, strides, first := w0, second := w1, resv := aux || (ov.isNone && out),
      ovBad := ov.isSome && out, handle := 0, coords := [] }

/-- D0, D1 and D2 of a record. -/
def rd0 (r : FmtR) (ov : List Word) : RDesc := rdescOf r.w2 r.w3 ov[0]?
def rd1 (r : FmtR) (ov : List Word) : RDesc := rdescOf r.w4 r.w5 ov[1]?
def rd2 (r : FmtR) (ov : List Word) : RDesc := rdescOf r.w6 r.w7 ov[2]?
def Rec.d0 (x : Rec) : RDesc := rd0 x.r x.ov
def Rec.d1 (x : Rec) : RDesc := rd1 x.r x.ov
def Rec.d2 (x : Rec) : RDesc := rd2 x.r x.ov

/-- The trip counts T0 to T3 (R65). -/
def tripsOf (r : FmtR) : List Nat := (List.range 4).map fun k => (r.w1.extractLsb' (16 * k) 16).toNat + 1
def trip (r : FmtR) (k : Nat) : Nat := (tripsOf r).getD k 1
/-- Elements of the nest. -/
def nestSize (r : FmtR) : Nat := trip r 0 * trip r 1 * trip r 2 * trip r 3

/-- A stride. -/
def RDesc.stride (d : RDesc) (k : Nat) : Int := d.strides.getD k 0
/-- The tile a SPACE 6 descriptor names, and its offset. -/
def RDesc.tile (d : RDesc) : Nat := d.base / 2 ^ 16 % 16
def RDesc.off (d : RDesc) : Nat := (BitVec.ofNat 64 d.base &&& BitVec.ofNat 64 (offMask d.space)).toNat
/-- The core of a near store, and the die of a bank, that a descriptor of a core names (R66). -/
def RDesc.nearCore (d : RDesc) (core : Nat) : Nat :=
  if d.space = 1 then core
  else if d.space = 2 then dieOf core * 64 + d.base / 2 ^ 20 % 64
  else d.base / 2 ^ 26 % 4 * 64 + d.base / 2 ^ 20 % 64
def RDesc.bankDie (d : RDesc) (core : Nat) : Nat := if d.space = 4 then dieOf core else d.base / 2 ^ 28 % 4

/-! ## Element sizes (R244, R249) -/

/-- Container bytes of a type code; `none` for untyped or a 4-bit container. -/
def codeBytes (c : Nat) : Option Nat :=
  match tyOf (BitVec.ofNat 7 c) with
  | some t => if t.width = 4 ∨ 128 ≤ c then none else some (t.width / 8)
  | none => none

/-- The tensor's descriptor as the core sees it. -/
def RDesc.tensor (s : State) (core : Nat) (d : RDesc) : Desc := coreDesc s core d.handle
/-- A SPACE 7 tensor of 4-bit elements: each nest element is a byte of two (R244) (DEDUCED, log 31). -/
def RDesc.pairs (s : State) (core : Nat) (d : RDesc) : Bool :=
  d.space == 7 && d.handle != 0 && (d.tensor s core).rank != 0 && (d.tensor s core).ty.width == 4

/-- The size a side fixes, if it is typed. -/
def sideBytes (s : State) (core : Nat) (d : RDesc) : Option Nat :=
  if d.space = 0 then none
  else if d.space = 7 then
    if d.handle = 0 then some 1
    else if d.pairs s core then some 1
    else if (d.tensor s core).rank = 0 then codeBytes d.typ
    else some ((d.tensor s core).ty.width / 8)
  else codeBytes d.typ

/-- The element size of a copy: the typed side's, else 1. -/
def elemBytes (s : State) (core : Nat) (a b : RDesc) : Nat :=
  match sideBytes s core a, sideBytes s core b with
  | some x, some y => Nat.max x y
  | some x, none => x
  | none, some y => y
  | none, none => 1

/-- The element sizes of D0 and D1: a conversion has two (R249, R252). -/
def Rec.sizes (s : State) (core : Nat) (x : Rec) : Nat × Nat :=
  match x.op with
  | .cpcv => ((sideBytes s core x.d0).getD 1, (sideBytes s core x.d1).getD 1)
  | _ => let e := elemBytes s core x.d0 x.d1; (e, e)

/-! ## Ranges (11 R220; 07 R135) -/

/-- What a range is in: a near store, a bank, a tile image or a queue. -/
inductive Space where
  | near (core : Nat)
  | bank (die : Nat)
  | tile (t : Nat)
  | queue (q : Nat)
deriving DecidableEq, Repr

structure Range where
  sp : Space
  lo : Int := 0
  hi : Int := 1
  write : Bool
deriving DecidableEq, Repr

/-- Two ranges overlap and one is written. -/
def Range.hits (a b : Range) : Bool :=
  a.sp == b.sp && decide (a.lo < b.hi) && decide (b.lo < a.hi) && (a.write || b.write)

/-- Bytes of a stride unit (R66). -/
def unitBytes (d : RDesc) (e : Nat) : Nat := if d.unit = 0 then e else if d.unit = 1 then 1 else 512

/-- The bounding range of a descriptor over a nest: first and last byte plus one (R220). -/
def spanOf (d : RDesc) (trips : List Nat) (e : Nat) : Int × Int :=
  let u := unitBytes d e
  let steps := (List.range 4).map fun k => ((trips.getD k 1 : Int) - 1) * d.stride k * (u : Int)
  let b : Int := d.off
  (b + (steps.map fun x => min 0 x).foldl (· + ·) 0, b + (steps.map fun x => max 0 x).foldl (· + ·) 0 + (e : Int))

/-- The range of a descriptor of SPACE 1-6 or 9; others are not checked. -/
def rangeOf (core : Nat) (d : RDesc) (span : Int × Int) (write : Bool) : List Range :=
  match d.space with
  | 1 | 2 | 3 => [{ sp := .near (d.nearCore core), lo := span.1, hi := span.2, write }]
  | 4 | 5 => [{ sp := .bank (d.bankDie core), lo := span.1, hi := span.2, write }]
  | 6 => [{ sp := .tile d.tile, write }]
  | 9 => [{ sp := .queue (d.base % 8), write := true }]
  | _ => []

/-- Tile numbers `a + t × s` of the first steps; past 32 steps a nonzero stride has left 0-15. -/
def tileSteps (a : Nat) (s : Int) (n : Nat) : List Int := (List.range (min n 32)).map fun (t : Nat) => (a : Int) + (t : Int) * s

/-- Ranges that read these tiles. -/
def tileReads (l : List Int) : List Range :=
  (l.eraseDups.filter fun t => decide (0 ≤ t) && decide (t < 16)).map fun t => { sp := .tile t.toNat, write := false }

/-- Participants of an `mmulc`, rising core-in-die (07 R143). -/
def coresOf (r : FmtR) : List Nat := (List.range 64).filter fun c => r.w3.getLsbD c

/-- Where block `q` of an `mmulc` goes: row and column, owner index, tile and half (R143). -/
structure BlockAt where
  i : Nat
  j : Nat
  owner : Nat
  tile : Nat
  half : Nat
deriving DecidableEq, Repr

def blockAt (r : FmtR) (ov : List Word) (q : Nat) : BlockAt :=
  let d := rd0 r ov
  let p := max 1 (coresOf r).length
  let n := trip r 2
  let per := (trip r 1 * n + p - 1) / p
  let h0 := if d.off = 0x4000 then 1 else 0
  { i := q / n, j := q % n, owner := q / per, tile := d.tile + (h0 + q % per) / 2, half := (h0 + q % per) % 2 }

/-- Blocks of an `mmulc`. -/
def blocksOf (r : FmtR) : Nat := trip r 1 * trip r 2

/-- C tiles of an `mmulc` on participant `k`. -/
def cTiles (r : FmtR) (ov : List Word) (k : Nat) : List Nat :=
  (((List.range (min (blocksOf r) 4096)).map (blockAt r ov)).filter fun b => b.owner == k).map (·.tile) |>.eraseDups

/-- The leader's place among the participants. -/
def leaderIndex (core : Nat) (r : FmtR) : Nat := (coresOf r).idxOf (core % 64)

/-- Steps of an operand of an `mmulc`: over the K-steps and its blocks. -/
def operandSteps (d : RDesc) (k n m : Nat) : List Int :=
  (List.range (min n 32)).flatMap fun (i : Nat) => (tileSteps 0 (d.stride 0) m).map fun (x : Int) =>
    (d.tile : Int) + x + (i : Int) * d.stride k

/-- The range of an operand of an `mmulc`. -/
def operandRange (core : Nat) (r : FmtR) (d : RDesc) (k : Nat) : List Range :=
  if d.space = 6 then tileReads (operandSteps d k (trip r k) (trip r 0))
  else
    let step := fun j n => ((n : Int) - 1) * d.stride j * 0x8880
    let a := step 0 (trip r 0)
    let b := step k (trip r k)
    rangeOf core d ((d.off : Int) + min 0 a + min 0 b, (d.off : Int) + max 0 a + max 0 b + 0x8880) false

/-- The ranges a record's checker takes. -/
def rangesOf (s : State) (core : Nat) (x : Rec) : List Range :=
  let t := tripsOf x.r
  match x.op with
  | .mmul | .mmod =>
    { sp := .tile x.d0.tile, write := true } ::
      tileReads (tileSteps x.d1.tile (x.d1.stride 0) (trip x.r 0) ++ tileSteps x.d2.tile (x.d2.stride 0) (trip x.r 0))
  | .mmulc =>
    ((cTiles x.r x.ov (leaderIndex core x.r)).map fun t => ({ sp := .tile t, write := true } : Range))
      ++ operandRange core x.r x.d1 1 ++ operandRange core x.r x.d2 2
  | .mtr => [{ sp := .tile x.d0.tile, write := true }, { sp := .tile x.d1.tile, write := false }]
  | .cpdz =>
    let r := fun (d : RDesc) w => rangeOf core d ((d.off : Int), (d.off : Int) + d.second.toNat) w
    r x.d0 true ++ r x.d1 false ++ r x.d2 false
  | .cp | .cpcv | .cpbk | .mig | .coll =>
    let e := x.sizes s core
    rangeOf core x.d0 (spanOf x.d0 t e.1) true ++ rangeOf core x.d1 (spanOf x.d1 t e.2) false
  | .migrep | .note => []

/-! ## Records by number -/

/-- A matrix record. -/
def RecOp.isMatrix : RecOp → Bool
  | .mmul | .mmulc | .mmod | .mtr => true
  | _ => false
/-- A plain matrix record (07 R137). -/
def RecOp.isPlain : RecOp → Bool
  | .mmul | .mmod | .mtr => true
  | _ => false

/-- Every record and marker of a core. -/
def Core.records (c : Core) : List Rec := c.matQ ++ c.copyQ ++ c.collQ
/-- A record of a core. -/
def findRec (s : State) (core rid : Nat) : Option Rec := (s.core core).records.find? fun r => r.id == rid
/-- The queue a record stands in. -/
def queueOf (c : Core) (x : Rec) : List Rec :=
  if x.op.isMatrix then c.matQ else if x.op = .coll then c.collQ else c.copyQ
/-- A record rewritten wherever it stands. -/
def mapRec (s : State) (core rid : Nat) (f : Rec → Rec) : State :=
  let g := fun (l : List Rec) => l.map fun r => if r.id = rid then f r else r
  let c := s.core core
  s.setCore core { c with matQ := g c.matQ, copyQ := g c.copyQ, collQ := g c.collQ }
/-- A record leaves its queues. -/
def dropRec (s : State) (core rid : Nat) : State :=
  let g := fun (l : List Rec) => l.filter fun r => r.id != rid
  let c := s.core core
  s.setCore core { c with matQ := g c.matQ, copyQ := g c.copyQ, collQ := g c.collQ }

/-- A core of the group runs a launch of the job. -/
def groupRuns (s : State) (g job : Nat) : Bool := (groupCores g).any fun c => (launchOf s c).any fun l => l.job == job

/-- A consistent cut has stopped the core's group (14 R290 step 3). -/
def cutStops (s : State) (core : Nat) : Bool :=
  s.cuts.any fun c => c.stopping.contains (dieOf core) && groupRuns s (groupOf core) c.job

/-- The records and the reservations of a core that hold a tile against an access (07 R135, R146). -/
def tileHolders (s : State) (core t : Nat) (write : Bool) : List Nat × List (Nat × Nat) :=
  (((s.core core).records.filter fun r => (rangesOf s core r).any fun g => g.sp == .tile t && (g.write || write)).map (·.id),
   ((s.core core).reservations.filter fun r => r.tile == t && (r.write || write)).map fun r => (r.leader, r.rid))

/-- A tile instruction of the core that waits, and was issued before record `rid`, touches the tile of a range (07 R135): the record
sees its effect. -/
def tileWaits (s : State) (core rid : Nat) (g : Range) : Bool :=
  [2 * core, 2 * core + 1].any fun t =>
    match (s.thread t).status with
    | .waiting (.tile n w recs _) => g.sp == .tile n && (g.write || w) && recs.all fun k => decide (k < rid)
    | _ => false

/-! ## Issue (R243) -/

/-- The queues a record enters. -/
structure Queues where
  m : Bool := false
  c : Bool := false
  l : Bool := false
deriving DecidableEq, Repr

def matrixQ : Queues := { m := true }
def copyQs : Queues := { c := true }
def collQs : Queues := { l := true }

/-- The named queues have room for one more (R219). -/
def hasRoom (c : Core) (q : Queues) : Bool :=
  (!q.m || decide (c.matQ.length < 16)) && (!q.c || decide (c.copyQ.length < 32)) && (!q.l || decide (c.collQ.length < 8))

/-- The records ahead of a marker in the named queues. -/
def aheadOf (c : Core) (q : Queues) : List Nat :=
  (((if q.m then c.matQ else []) ++ (if q.c then c.copyQ else []) ++ (if q.l then c.collQ else [])).filter
    fun r => r.op != .note).map (·.id)

/-- The record as it enters its queue. -/
def newRec (s : State) (op : RecOp) (r : FmtR) (vs : List Val) : Rec :=
  { id := (s.core (coreOf s.cur)).nextRec, op, exe := isExe s.cur, pc := s.th.pc, r, ov := vs.map (·.word),
    tag := (whoOf s s.cur).tag, issued := s.issues }

/-- Put a record in its queues; its number, and its place in the order of issue, are used up. -/
def pushRec (s : State) (core : Nat) (q : Queues) (x : Rec) : State :=
  let c := s.core core
  let s1 := { s with issues := s.issues + 1 }
  s1.setCore core { c with matQ := if q.m then c.matQ ++ [x] else c.matQ, copyQ := if q.c then c.copyQ ++ [x] else c.copyQ,
                           collQ := if q.l then c.collQ ++ [x] else c.collQ, nextRec := c.nextRec + 1 }

/-- Cause 0x20 found at issue: reported at the issue address with micro-program counter 0 (R246) (DEDUCED, log 29). -/
def issueFault (s : State) (reason : Nat) : State :=
  raise s { cause := 0x20, reason, eng := true, kind := 1, info := s.th.pc.toNat, issue := s.th.pc.toNat }

/-- The overrides of a record (R67). -/
def overrides (r : FmtR) : List (Need × OpField) := ([r.ov0, r.ov1, r.ov2].take r.ovn.toNat).map fun f => (.s, f)

/-- Issue of a record: nothing for a disabled one; else `check` may raise or wait; then the access thread's loads settle,
the queues have room, and the record enters them (R196, R219, R243). -/
def recIssue (s : State) (h : Hdr) (r : FmtR) (op : RecOp) (q : Queues) (check : State → Option State)
    (enter : State → Rec → State) : State :=
  effectLanes s h 1 (getOps s.th (overrides r)) [] (fun vs =>
    match check s with
    | some s1 => s1
    | none =>
      holdLoads s fun _ =>
        if !hasRoom (s.core (coreOf s.cur)) q then park s (.recSpace q.m q.c q.l)
        else enter s (newRec s op r vs)) 64

/-- The record enters its queue and the thread goes on past its eight words. -/
def enterQueue (q : Queues) (s : State) (x : Rec) : State := finishIn (pushRec s (coreOf s.cur) q x) [] 0 64

/-- A plain matrix record needs a claim, and enters its queue only while the core holds the lease (07 R137) (DEDUCED, log 21). -/
def plainCheck (s : State) : Option State :=
  let core := coreOf s.cur
  let l := (s.core core).lease
  if isSvc core || !l.claim then some (raise s { cause := 0x21 })
  else if !l.tenure || l.lender.isSome then some (park s .lease)
  else none

def execMmul (h : Hdr) (x : FmtR) (s : State) : Out := .next (recIssue s h x .mmul matrixQ plainCheck (enterQueue matrixQ))
def execMmulc (h : Hdr) (x : FmtR) (s : State) : Out :=
  .next (recIssue s h x .mmulc matrixQ (fun _ => none) (enterQueue matrixQ))
/-- The modulus is read at issue (07 R147). -/
def execMmod (h : Hdr) (x : FmtR) (s : State) : Out :=
  .next (recIssue s h x .mmod matrixQ plainCheck fun s r =>
    enterQueue matrixQ s { r with q := tget s.th.mods (x.aux.toNat % 8) 0 })
def execMtr (h : Hdr) (x : FmtR) (s : State) : Out := .next (recIssue s h x .mtr matrixQ plainCheck (enterQueue matrixQ))

/-- Reason 0x0D: the thread, the types or the size of a queue end (R250, R251). -/
def queueEndBad (s : State) (x : FmtR) (ov : List Word) : Bool :=
  let a := rd0 x ov
  let b := rd1 x ov
  let n := nestSize x
  (a.space == 9 || b.space == 9) &&
    ((a.space == 9 && isExe s.cur) || (b.space == 9 && !isExe s.cur) || n % 512 != 0
      || decide (16 * 512 < n * elemBytes s (coreOf s.cur) a b)
      || (a.space != 0 && a.typ != 0x7F) || (b.space != 0 && b.typ != 0x7F))

/-- Entries a queue end takes. -/
def queueEndCount (s : State) (x : FmtR) (ov : List Word) : Nat :=
  nestSize x * elemBytes s (coreOf s.cur) (rd0 x ov) (rd1 x ov) / 512

/-- Reserve entries for a queue destination: pending until their bytes have landed (R250). -/
def reserveSlots (s : State) (q n rid : Nat) (tag : Tag) : State :=
  let core := coreOf s.cur
  let c := s.core core
  let s1 := setQueue s core q (entriesOf s core q ++ List.replicate n { status := .asked [], tag, filler := some rid, issue := c.nextPush,
                                                                                pushed := s.cycle + 1 })
  s1.setCore core { s1.core core with nextPush := c.nextPush + 1 }

/-- Reserve the `n` oldest unreserved entries for a queue source (R251). -/
def reserveOldest (rid : Nat) : Nat → List Entry → List Entry
  | 0, l => l
  | _, [] => []
  | n + 1, e :: l =>
    if e.taker.isNone then { e with taker := some rid } :: reserveOldest rid n l else e :: reserveOldest rid (n + 1) l

/-- A `cp` enters its queue with the entries of its queue end reserved. -/
def enterCopy (s : State) (r : Rec) : State :=
  let core := coreOf s.cur
  let n := queueEndCount s r.r r.ov
  if r.d0.space = 9 then
    let q := r.d0.base % 8
    if 16 < queueLen s core q + n then park s (.qspace q n)
    else enterQueue copyQs (reserveSlots s q n r.id r.tag) r
  else if r.d1.space = 9 then
    let q := r.d1.base % 8
    if (freeEntries (entriesOf s core q)).length < n then park s (.qheld q n)
    else enterQueue copyQs (setQueue s core q (reserveOldest r.id n (entriesOf s core q))) r
  else enterQueue copyQs s r

/-- A queue end whose other side is a tensor with a lost descriptor: its size cannot be known (14 R292). -/
def queueEndLost (s : State) (x : FmtR) (ov : List Word) : Option Trap :=
  let core := coreOf s.cur
  let lost := fun (d : RDesc) => if d.space = 7 then descPoison s (s.core core).view (partOf s core) d.handle else none
  if (rd0 x ov).space = 9 ∨ (rd1 x ov).space = 9 then
    ([rd0 x ov, rd1 x ov].findSome? fun d => (lost d).map fun l => { tensorTrap 0x19 d.handle d.coords with errAt := some l })
  else none

/-- The override scalars of a record as they stand. -/
def overrideWords (s : State) (x : FmtR) : List Word :=
  ((getOps s.th (overrides x)).toOption.getD []).map (·.word)

def execCp (h : Hdr) (x : FmtR) (s : State) : Out :=
  .next (recIssue s h x .cp copyQs
    (fun s =>
      match queueEndLost s x (overrideWords s x) with
      | some t => some (raise s t)
      | none => if queueEndBad s x (overrideWords s x) then some (issueFault s 0x0D) else none) enterCopy)
def execCpcv (h : Hdr) (x : FmtR) (s : State) : Out :=
  .next (recIssue s h x .cpcv copyQs (fun _ => none) (enterQueue copyQs))
def execCpdz (h : Hdr) (x : FmtR) (s : State) : Out :=
  .next (recIssue s h x .cpdz copyQs (fun _ => none) (enterQueue copyQs))
def execCpbk (h : Hdr) (x : FmtR) (s : State) : Out :=
  .next (recIssue s h x .cpbk copyQs (fun _ => none) (enterQueue copyQs))
def execMig (h : Hdr) (x : FmtR) (s : State) : Out :=
  .next (recIssue s h x .mig copyQs (fun _ => none) (enterQueue copyQs))
def execMigrep (h : Hdr) (x : FmtR) (s : State) : Out :=
  .next (recIssue s h x .migrep copyQs (fun _ => none) (enterQueue copyQs))
/-- A collective takes its number at its level (R255). -/
def execColl (h : Hdr) (x : FmtR) (s : State) : Out :=
  .next (recIssue s h x .coll collQs (fun _ => none) fun s r =>
    let core := coreOf s.cur
    let n := tget (s.core core).colls x.scp.toNat 0 + 1
    let s1 := s.setCore core { s.core core with colls := tput 0 (s.core core).colls x.scp.toNat n }
    enterQueue collQs s1 { r with collNo := n })

/-- The queues a `note` names (R259). -/
def noteQueues (x : FmtR) : Queues := { m := x.aux.getLsbD 0, c := x.aux.getLsbD 1, l := x.aux.getLsbD 2 }
/-- Word 1 [63:8] and words 2-7 are zero. -/
def noteOk (x : FmtR) : Bool :=
  x.w1.extractLsb' 8 56 == 0 && x.w2 == 0 && x.w3 == 0 && x.w4 == 0 && x.w5 == 0 && x.w6 == 0 && x.w7 == 0
/-- The event write of a `note`. -/
def noteEvent (s : State) (tid : Nat) (tag : Tag) (x : FmtR) : State :=
  issueWrite s { whoOf s tid with tag, eng := true } tid (.event (tagPart tag) (x.w1.toNat % 256) true) false 0 { cause := 0x1A }

/-- A `note` places its markers; with no record ahead in any named queue its bit is set at once (R221, R259). -/
def execNote (h : Hdr) (x : FmtR) (s : State) : Out :=
  .next (recIssue s h x .note (noteQueues x)
    (fun s => if noteOk x then none else some (issueFault s 0x05)) fun s r =>
      let ahead := aheadOf (s.core (coreOf s.cur)) (noteQueues x)
      if ahead.isEmpty then finishIn (noteEvent s s.cur r.tag x) [] 0 64
      else enterQueue (noteQueues x) s { r with ahead })

end Sys2Proof.Machine
end

