-- ==== Sys2Proof/Machine/TileInstr.lean ====
section
/-! DEFINITION. Tile instructions, tile descriptors and leases (07 R126-R137): major 0xB, `tdset` and `tdget`. -/

namespace Sys2Proof.Machine

open Sys2Proof

/-! ## Tile files (R126-R130) -/

/-- Byte address of an offset of a tile in its core's tile file. -/
def tileAddr (t off : Nat) : Nat := t * Config.tileBytes + off

/-- `n` bytes of a tile as a reader sees them, or its poison. -/
def tileRead (s : State) (w : Who) (core t off n : Nat) : Except Nat (List Byte) :=
  match poisonIn s w (.tiles core) (tileAddr t off) n with
  | some k => .error (poisonCause k)
  | none => .ok (readBytes s w (.tiles core) (tileAddr t off) n)

/-- Write bytes of a tile; the bitmap words of the data rows touched become 0 (R130). -/
def tileWrite (s : State) (w : Who) (core t off : Nat) (l : List Byte) : State :=
  storeCells s w (.tiles core) (cellsOf (tileAddr t off) l)

/-- Fields of a tile descriptor (R127). -/
structure TileDesc where
  klen : Nat
  gsz : Nat
  ty : Nat
deriving DecidableEq, Repr

def tileDescOf (n : Nat) : TileDesc := { klen := n / 2 ^ 16 % 2 ^ 11, gsz := n / 2 ^ 8 % 2, ty := n % 2 ^ 7 }

/-- An input type (R128): those a matrix record multiplies. -/
def inputTy (c : Nat) : Option Ty :=
  match tyOf (BitVec.ofNat 7 c) with
  | some t =>
    (match t with
     | .i4 | .i8 | .m64 | .mx4 | .mx6 | .mx8 | .mx10 | .mx12 | .mx14 | .mx16 => some t
     | _ => none)
  | none => none

/-- Bits of an element's container in a tile (R75, R87, R128). -/
def contBits : Ty → Nat
  | .i4 | .mx4 => 4
  | .i8 | .mx6 | .mx8 => 8
  | .m64 => 64
  | _ => 16
/-- Elements of a row. -/
def rowCap (t : Ty) : Nat := 4096 / contBits t
/-- Elements of a bitmap unit along K, and units of a row-group word (R128). -/
def unitElems (t : Ty) : Nat := if contBits t = 4 then 16 else 8
def unitsPerWord (t : Ty) : Nat := rowCap t / unitElems t
/-- The bits of a container that hold the element's code. -/
def codeBits : Ty → Nat
  | .i4 => 4 | .i8 => 8 | .m64 => 64
  | t => mxBits t

/-- Code of element `k` in a row's little-endian number. -/
def rowCode (t : Ty) (row k : Nat) : Nat := row / 2 ^ (contBits t * k) % 2 ^ codeBits t

/-- KLEN with 0 resolved to the row's capacity (R127). -/
def klenOf (t : Ty) (d : TileDesc) : Nat := if d.klen = 0 then rowCap t else d.klen

/-- Word `g` of the bitmap recomputed from the rows of its row-group (R133). -/
def bitmapWord (t : Ty) (klen : Nat) (rows : List Nat) : Nat :=
  (List.range (unitsPerWord t)).foldl (fun n j =>
    let zero := rows.all fun r => (List.range (unitElems t)).all fun e =>
      let k := j * unitElems t + e
      decide (klen ≤ k) || rowCode t r k == 0
    if zero then n + 2 ^ j else n) 0

/-! ## The instructions (R131-R135) -/

/-- A tile instruction waits until none of the records and reservations of its core that were there when it was issued holds the
tile: one issued later waits for it (R135) (DEDUCED, log 36). -/
def withTile (s : State) (t : Nat) (write : Bool) (f : Unit → State) : State :=
  let now := tileHolders s (coreOf s.cur) t write
  let left : List Nat × List (Nat × Nat) := match s.th.status with
    | .waiting (.tile _ _ recs rsv) => (recs.filter now.1.contains, rsv.filter now.2.contains)
    | _ => now
  if left.1.isEmpty && left.2.isEmpty then f () else park s (.tile t write left.1 left.2)

/-- The same for one that writes, which is an effect outside an access thread (10 R196). -/
def tileWrites (s : State) (t : Nat) (f : Unit → State) : State :=
  holdLoads s fun _ => withTile s t true f

/-- The tile a word names. -/
def tileOf (x : FmtS) : Nat := x.dst.toNat % 16

/-- `tzero`: data and scales zero, every bitmap bit 1. -/
def execTzero (h : Hdr) (x : FmtS) (s : State) : Out :=
  .next (effectOp s h (.ok []) [] fun _ => tileWrites s (tileOf x) fun _ =>
    let w := whoOf s s.cur
    let core := coreOf s.cur
    let t := tileOf x
    let m := (List.range 68).foldl (fun (m : Memory) k =>
      ((m.zeroRange (tileAddr t (512 * k)) 512).setTag (t * 70 + k) w.tag).setPoison (t * 70 + k) none) (memOf s (.tiles core))
    finishIn (tileWrite (setMem s (.tiles core) m) w core t 0x8800 (List.replicate 64 0xFF)) [])

/-- `tfill`: 32 KiB of a local window into the data (R132) (DEDUCED, log 36). -/
def execTfill (h : Hdr) (x : FmtS) (s : State) : Out :=
  .next (effectOp s h (getOps s.th [(.s, x.opa)]) [] fun vs =>
    let ea := (arg vs 0).word.toNat
    if ea / 2 ^ 40 < 0xF0 then raise s (flatTrap 0x15 ea)
    else
      match flatPlace s s.cur ea 0x8000 512 .load with
      | .error t => raise s t
      | .ok pl => tileWrites s (tileOf x) fun _ =>
        match readLocs s s.cur (unitLocs pl 0x8000) with
        | .error e => stopRead s (flatTrap 0x19 ea) e
        | .ok (ws, s1) =>
          finishIn (tileWrite s1 (whoOf s s.cur) (coreOf s.cur) (tileOf x) 0 (ws.flatMap (leBytes 8))) [])

/-- The row a `trow` or `twrow` names, and the quarter of a `tscl` (R64). -/
def rowOf (x : FmtS) : Nat := x.aux.toNat % 64
def quarterOf (x : FmtS) : Nat := x.aux.toNat % 4

def execTrow (h : Hdr) (x : FmtS) (s : State) : Out :=
  .next (effectOp s h (.ok []) [.v 0] fun _ => withTile s (tileOf x) false fun _ =>
    match tileRead s (whoOf s s.cur) (coreOf s.cur) (tileOf x) (512 * rowOf x) 512 with
    | .error c => raise s { cause := c }
    | .ok l => finishIn s [.v (bytesVec l)])

def execTwrow (h : Hdr) (x : FmtS) (s : State) : Out :=
  .next (effectOp s h (getOps s.th [(.v, x.opa)]) [] fun vs => tileWrites s (tileOf x) fun _ =>
    finishIn (tileWrite s (whoOf s s.cur) (coreOf s.cur) (tileOf x) (512 * rowOf x) (vecBytes ((arg vs 0).vec 64))) [])

def execTscl (h : Hdr) (x : FmtS) (s : State) : Out :=
  .next (effectOp s h (getOps s.th [(.v, x.opa)]) [] fun vs => tileWrites s (tileOf x) fun _ =>
    finishIn (tileWrite s (whoOf s s.cur) (coreOf s.cur) (tileOf x) (0x8000 + 512 * quarterOf x)
      (vecBytes ((arg vs 0).vec 64))) [])

/-- The bitmap a tile's data gives under its descriptor (R133). -/
def bitmapOf (d : TileDesc) (data : List Byte) : List Byte :=
  match inputTy d.ty with
  | none => List.replicate 64 0
  | some ty =>
    (List.range 8).flatMap fun g =>
      leBytes 8 (bitmapWord ty (klenOf ty d) ((List.range 8).map fun r => leNat ((data.drop (512 * (8 * g + r))).take 512)))

/-- `tbmap`. -/
def execTbmap (h : Hdr) (x : FmtS) (s : State) : Out :=
  .next (effectOp s h (.ok []) [] fun _ => tileWrites s (tileOf x) fun _ =>
    let w := whoOf s s.cur
    let core := coreOf s.cur
    match tileRead s w core (tileOf x) 0x8840 8, tileRead s w core (tileOf x) 0 0x8000 with
    | .error c, _ => raise s { cause := c }
    | _, .error c => raise s { cause := c }
    | .ok d, .ok l => finishIn (tileWrite s w core (tileOf x) 0x8800 (bitmapOf (tileDescOf (leNat d)) l)) [])

/-- A field of a tile descriptor: its place and width (R134). -/
def tdField (id : Nat) : Nat × Nat :=
  match id with
  | 1 => (0, 7) | 2 => (8, 1) | 3 => (16, 11)
  | _ => (0, 64)

/-- A descriptor with a field replaced. -/
def tdPut (old : Nat) (id v : Nat) : Nat :=
  let f := tdField id
  let m := BitVec.ofNat 64 ((2 ^ f.2 - 1) * 2 ^ f.1)
  (((BitVec.ofNat 64 old &&& ~~~m) ||| (BitVec.ofNat 64 (v % 2 ^ f.2 * 2 ^ f.1))) &&& tileDescMask).toNat

/-- `tdset` (R134). A write of the whole descriptor reads nothing. -/
def execTdset (h : Hdr) (x : FmtS) (s : State) : Out :=
  .next (effectOp s h (getOps s.th [(.s, x.opa)]) [] fun vs => tileWrites s (tileOf x) fun _ =>
    let w := whoOf s s.cur
    let core := coreOf s.cur
    let old := if x.aux = 0 then .ok [] else tileRead s w core (tileOf x) 0x8840 8
    match old with
    | .error c => raise s { cause := c }
    | .ok l =>
      finishIn (tileWrite s w core (tileOf x) 0x8840 (leBytes 8 (tdPut (leNat l) x.aux.toNat (arg vs 0).word.toNat))) [])

/-- `tdget` (R134). -/
def execTdget (h : Hdr) (x : FmtS) (s : State) : Out :=
  .next (effectOp s h (.ok []) [.s 0] fun _ => withTile s (tileOf x) false fun _ =>
    match tileRead s (whoOf s s.cur) (coreOf s.cur) (tileOf x) 0x8840 8 with
    | .error c => raise s { cause := c }
    | .ok l =>
      let f := tdField x.aux.toNat
      finishIn s [.s (BitVec.ofNat 64 (leNat l / 2 ^ f.1 % 2 ^ f.2))])

/-! ## The array of a group: tenures and those who wait (R136, R144; 11 R223) -/

/-- The lease of a core rewritten. -/
def setLease (s : State) (core : Nat) (l : Lease) : State := s.setCore core { s.core core with lease := l }

/-- The tenure of a core ends; with a claim it waits again (R136). -/
def endTenure (s : State) (core : Nat) : State :=
  let l := (s.core core).lease
  setLease s core { l with tenure := false, recs := 0, completed := false, waitFrom := s.cycle }

/-- A waiter for a group's array: when it began to wait, its core-in-group, and the record of a leader that waits. -/
structure Waiter where
  since : Nat
  core : Nat
  coop : Option (Nat × Nat)
deriving DecidableEq, Repr

/-- The participant whose array a cooperative record waits for next, in ascending group order (R144). -/
def nextArray (x : Rec) : Option Nat :=
  let l := coresOf x.r
  if x.op = .mmulc && x.status == .running && x.work.isEmpty && decide (x.doneBlocks.length < blocksOf x.r) then
    (List.range l.length).find? fun k => !x.arrays.contains k
  else none
/-- Package core of participant `k`. -/
def participant (core : Nat) (x : Rec) (k : Nat) : Nat := dieOf core * 64 + (coresOf x.r).getD k 0

/-- Everyone who waits for a group's array. -/
def waiters (s : State) (g : Nat) : List Waiter :=
  let plain := (groupCores g).filterMap fun c =>
    let l := (s.core c).lease
    if l.claim && !l.tenure && l.lender.isNone then some { since := l.waitFrom, core := c, coop := none } else none
  let coop := s.cores.flatMap fun c => c.2.matQ.filterMap fun x =>
    match nextArray x with
    | some k =>
      let q := participant c.1 x k
      if groupOf q = g then some { since := x.waitFrom, core := q, coop := some (c.1, x.id) } else none
    | none => none
  plain ++ coop

/-- The oldest waiter; ages grow alike, since all belong to the live partition; ties go by core-in-group (R223), and between
a core's own claim and a leader that waits as that core to the claim, for which R144 has no rule (DESIGN CHOICE, log 76). -/
def oldest : List Waiter → Option Waiter
  | [] => none
  | w :: l =>
    match oldest l with
    | none => some w
    | some v => if v.since < w.since ∨ (v.since = w.since ∧ v.core < w.core) then some v else some w

/-- No tenure stands and no cooperative record holds the array. -/
def arrayFree (s : State) (g : Nat) : Bool :=
  (s.group g).lent.isNone && (groupCores g).all fun c => !(s.core c).lease.tenure

/-- The array serves a core's plain records: its tenure stands (R136). -/
def arrayServes (s : State) (core : Nat) : Bool := (s.core core).lease.tenure && (s.core core).lease.lender.isNone

/-- The core has no matrix record queued or running. -/
def noMatrix (c : Core) : Bool := !c.matQ.any (·.op.isMatrix)

/-- A tenure that has completed a record ends once another core waits and its core has no matrix record (R136). -/
def settleTenure (s : State) (g : Nat) : State :=
  (groupCores g).foldl (fun s c =>
    let x := s.core c
    if x.lease.tenure && x.lease.completed && noMatrix x && (waiters s g).any (fun w => w.core != c || w.coop.isSome) then
      endTenure s c
    else s) s

/-! ## Leases (R136, R137) -/


/-- `lease`: takes a claim and waits for its first grant, which may end a tenure of another core; with a claim already, no
effect. -/
def execLease (h : Hdr) (_x : FmtS) (s : State) : Out :=
  .next (effectOp s h (.ok []) [] fun _ =>
    let core := coreOf s.cur
    let l := (s.core core).lease
    if isSvc core then raise s { cause := 0x21 }
    else holdLoads s fun _ =>
      if !l.claim then
        park (settleTenure (setLease s core { l with claim := true, asker := some s.cur, waitFrom := s.cycle }) (groupOf core)) .lease
      else if l.asker = some s.cur then park s .lease
      else finishIn s [])

/-- `unlease`: waits for the plain matrix records, then ends the claim and any tenure. -/
def execUnlease (h : Hdr) (_x : FmtS) (s : State) : Out :=
  .next (effectOp s h (.ok []) [] fun _ =>
    let core := coreOf s.cur
    let c := s.core core
    if !c.lease.claim then finishIn s []
    else if c.matQ.any (·.op.isPlain) then park s .unlease
    else holdLoads s fun _ =>
      finishIn (setLease s core { c.lease with claim := false, tenure := false, asker := none, recs := 0, completed := false }) [])

/-- What an `mwait` issued now waits for. -/
def mwaitNow (c : Core) : List Nat × List (Nat × Nat) :=
  ((c.matQ.filter (·.op.isMatrix)).map (·.id), c.reservations.map fun r => (r.leader, r.rid))

/-- It goes on once none of them is left. -/
def mwaitOn (s : State) (recs : List Nat) (rsv : List (Nat × Nat)) : State :=
  if recs.isEmpty && rsv.isEmpty then finishIn s [] else park s (.mwait recs rsv)

/-- `mwait`, which an access thread issues once its queue loads are settled (08 R161). -/
def execMwait (h : Hdr) (_x : FmtS) (s : State) : Out :=
  .next (effectOp s h (.ok []) [] fun _ =>
    let now := mwaitNow (s.core (coreOf s.cur))
    match s.th.status with
    | .waiting (.mwait recs rsv) => mwaitOn s (recs.filter now.1.contains) (rsv.filter now.2.contains)
    | _ => holdLoads s fun _ => mwaitOn s now.1 now.2)

end Sys2Proof.Machine
end

