-- ==== Sys2Proof/Machine/RecPlace.lean ====
section
/-! DEFINITION. Where a record's elements are, reading and writing them, and what happens when a record faults
(12 R244-R247, R250, R251; 02 R17; 21 R339). -/

namespace Sys2Proof.Machine

open Sys2Proof

/-- The thread that issued a record. -/
def recTid (core : Nat) (x : Rec) : Nat := 2 * core + (if x.exe then 1 else 0)
/-- A record's accesses carry the tag of its issue; the bitmap bytes it has written stand (07 R130). -/
def recWho (s : State) (core : Nat) (x : Rec) : Who := { whoOf s (recTid core x) with tag := x.tag, keeps := x.bitmap, eng := true }

/-! ## Places (R244) -/

/-- The place of an element: bytes at a place, bytes that two granules share, each at its own, two 4-bit elements of a tensor, a byte
of the queue end, or nothing. -/
inductive RPlace where
  | loc (p : Place)
  | bytes (l : List Place)
  | pair (lo hi : Option Place)
  | queue (off : Nat)
  | zero
deriving DecidableEq, Repr

/-- The loop indices i0 to i3 of element `n`. -/
def nestIdx (r : FmtR) (n : Nat) : List Nat :=
  [n % trip r 0, n / trip r 0 % trip r 1, n / (trip r 0 * trip r 1) % trip r 2, n / (trip r 0 * trip r 1 * trip r 2)]

/-- Byte offset of an element in spaces 1-6, 8 and 10. -/
def linOff (d : RDesc) (idx : List Nat) (e : Nat) : Int :=
  (List.range 4).foldl (fun a k => a + (idx.getD k 0 : Int) * d.stride k * (unitBytes d e : Int)) (d.off : Int)

/-- A near store may be reached: it is the partition's (R17). -/
def nearOpen (s : State) (p core peer : Nat) : Bool :=
  core == peer || (partOf s peer == p &&
    !(p == 0 && ((s.group (groupOf peer)).live.isSome || (s.group (groupOf peer)).shadow.isSome)))

/-- The address that reports an offset of a window; spaces 3 and 5 have none and report the offset (DESIGN CHOICE, log 30). -/
def windowAddr (d : RDesc) (a : Int) : Nat :=
  let x : Int := match d.space with
    | 1 => 0xF00000000000 + a
    | 2 => 0xF10000000000 + (d.base / 2 ^ 20 % 64 * 2 ^ 20 : Nat) + a
    | 4 => 0xF20000000000 + a
    | _ => a
  (x % ((2 ^ 48 : Nat) : Int)).toNat

/-- `e` bytes at an offset of spaces 1-5, under the checks of R17. -/
def windowPlace (s : State) (core p : Nat) (d : RDesc) (a : Int) (e : Nat) : Except Trap (Place × Trap) :=
  let t := flatTrap 0x15 (windowAddr d a)
  if d.space < 4 then
    let c := d.nearCore core
    if a < 0 ∨ (Config.nearBytes : Int) < a + e ∨ !nearOpen s p core c then .error t
    else .ok ({ store := .near c, addr := a.toNat }, t)
  else
    if a < ((bankRange s p).1 : Int) ∨ ((bankRange s p).2 : Int) < a + e then .error t
    else .ok ({ store := .bank (d.bankDie core), addr := a.toNat }, t)

/-- An element of a tensor at whole coordinates (R186, R191). -/
def recElem (s : State) (core p : Nat) (tag : Tag) (d : RDesc) (c : List Int) (acc : Acc) : Except Trap (Place × Trap) :=
  let h := d.handle
  let cn := c.map fun (x : Int) => (x % ((2 ^ 64 : Nat) : Int)).toNat
  let t : Trap := if h = 0 then flatTrap 0x13 (cn.getD 0 0) else tensorTrap 0x13 h (cn.map (· % 2 ^ 32))
  if c.any (fun x => decide (x < 0)) then .error t
  else if h = 0 ∧ 0xF00000000000 ≤ cn.getD 0 0 then .error { t with cause := 0x15 }
  else if h ≠ 0 ∧ cn.any (fun x => decide (2 ^ 32 ≤ x)) then .error t
  else (elemPlace s core p tag (d.tensor s core) h cn acc t).map (·, t)

/-- The place of element `n` of a descriptor, with the trap that reports it. -/
def recPlace (s : State) (core : Nat) (x : Rec) (d : RDesc) (n e : Nat) (acc : Acc) : Except Trap (RPlace × Trap) :=
  let p := tagPart x.tag
  let idx := nestIdx x.r n
  let a := linOff d idx e
  if d.space = 0 then .ok (.zero, { cause := 0x19 })
  else if d.space < 6 then (windowPlace s core p d a e).map fun r => (.loc r.1, r.2)
  else if d.space = 6 then
    .ok (.loc { store := .tiles core, addr := tileAddr d.tile a.toNat }, { cause := 0x19 })
  else if d.space = 7 then
    let c := (List.range 4).map fun k => (d.coords.getD k 0 : Int) + (idx.getD k 0 : Int) * d.stride k
    if d.pairs s core then
      let ext := (d.tensor s core).ext.getD 0 1
      let c0 := c.getD 0 0
      if (ext : Int) ≤ c0 then .ok (.pair none none, { cause := 0x19 })
      else
        match recElem s core p x.tag d c acc with
        | .error t => .error t
        | .ok lo =>
          if (ext : Int) ≤ c0 + 1 then .ok (.pair (some lo.1) none, lo.2)
          else
            match recElem s core p x.tag d (c.set 0 (c0 + 1)) acc with
            | .error t => .error t
            | .ok hi => .ok (.pair (some lo.1) (some hi.1), lo.2)
    else (recElem s core p x.tag d c acc).map fun r => (.loc r.1, r.2)
  else if d.space = 8 then
    let ea := (a % ((2 ^ 64 : Nat) : Int)).toNat
    (flatLocs s (recTid core x) ea e e acc).map fun ls =>
      (match ls with
       | [l] => .loc l.1
       | _ => .bytes (ls.map (·.1)), flatTrap 0x19 ea)
  else if d.space = 9 then .ok (.queue (n * e), { cause := 0x19 })
  else
    let off := (a % ((2 ^ 64 : Nat) : Int)).toNat
    let t := flatTrap 0x15 off
    if (hostTenancy s p).isNone ∨ Config.hostOutside s.fresh then .error t else .ok (.loc { store := .host, addr := off }, t)

/-! ## Reading and writing elements -/

/-- An element is a part of a run of elements that covers a tag unit: the neighbours along dimension 0, in rising addresses,
and whether it is the first or the last of them (21 R340, R341) (DESIGN CHOICE, log 75). -/
structure LineRun where
  first : Bool
  last : Bool
deriving DecidableEq, Repr

/-- The first byte of an element, where it has a place. -/
def elemAt (s : State) (core : Nat) (x : Rec) (d : RDesc) (e : Nat) (acc : Acc) (n : Nat) : Option (Store × Nat) :=
  match recPlace s core x d n e acc with
  | .ok (.loc p, _) => some (p.store, p.addr)
  | .ok (.pair (some p) _, _) => some (p.store, p.addr)
  | _ => none

/-- The run of element `n` of `e` bytes at a place of a descriptor, if the unit is covered: both its ends are elements of
the same pass of dimension 0, as far from it as their addresses are. -/
def lineRun (s : State) (core : Nat) (x : Rec) (d : RDesc) (n e : Nat) (acc : Acc) (p : Place) : Option LineRun :=
  let r := unitRange p.store (unitOf p.store p.addr)
  let i0 := n % trip x.r 0
  let k := (p.addr - r.1) / e
  let m := r.2 / e - 1 - k
  if i0 < k ∨ trip x.r 0 ≤ i0 + m then none
  else if elemAt s core x d e acc (n - k) = some (p.store, r.1) ∧ elemAt s core x d e acc (n + m) = some (p.store, r.1 + r.2 - e) then
    some { first := k == 0, last := m == 0 }
  else none

/-- What a written element is to its line. -/
def pieceOf : Option LineRun → Piece
  | some r => { line := true, last := r.last }
  | none => {}

/-- A read of an element asks the memory port, or rides on the request of its line's first (21 R340). -/
def asksPort : Option LineRun → Bool
  | some r => r.first
  | none => true

/-- The oldest entry reserved for a queue source (R251). -/
def sourceEntry (s : State) (core : Nat) (x : Rec) : Option Entry :=
  (entriesOf s core (x.d1.base % 8)).find? fun e => e.taker == some x.id

/-- The entry a record reads removed. -/
def dropTaken (rid : Nat) : List Entry → List Entry
  | [] => []
  | e :: l => if e.taker == some rid then l else e :: dropTaken rid l

/-- Bytes of the queue source, the entry leaving once its last byte has been read. -/
def readSource (s : State) (core : Nat) (x : Rec) (off e : Nat) : Except ReadStop (Nat × State) :=
  let q := x.d1.base % 8
  match sourceEntry s core x with
  | none => .error (.wait (.qready q 1))
  | some en =>
    let w := recWho s core x
    if !entryBefore s core en then .error (.wait (.qready q 1))
    else
      match (if sees s (.queue core) w en.tag then en.poison else none) with
      | some k => .error (.cause (poisonCause k))
      | none =>
        let v := (entryData s core w en).toNat / 2 ^ (8 * (off % 512)) % 2 ^ (8 * e)
        .ok (v, if off % 512 + e = 512 then setQueue s core q (dropTaken x.id (entriesOf s core q)) else s)

/-- One location of a record: a reply that carries a generation which has ended is dropped at its requester, and the element
reads as zeros (13 R263). -/
def readOne (s : State) (core : Nat) (x : Rec) (ask : Bool) (l : Loc) : Except ReadStop (Nat × State) :=
  let w := recWho s core x
  let tid := recTid core x
  if !w.raw && !w.current s (.port (dieOf core)) then .ok (0, s)
  else (readEach s tid w [l]).map fun r => (r.1.headD 0, if ask then askPorts r.2 tid w [l] else r.2)

/-- The value of an element, or why it does not come yet. -/
def readRec (s : State) (core : Nat) (x : Rec) (pl : RPlace) (e : Nat) (ask : Bool) : Except ReadStop (Nat × State) :=
  match pl with
  | .zero => .ok (0, s)
  | .loc p => readOne s core x ask (p, 8 * e)
  | .pair lo hi =>
    (match lo, hi with
     | some a, some b =>
       (match readOne s core x ask (a, 4) with
        | .error k => .error k
        | .ok (v, s1) =>
          (readOne s1 core x (ask && decide (a.store ≠ b.store ∨ a.addr / 64 ≠ b.addr / 64)) (b, 4)).map fun r => (v + 16 * r.1, r.2))
     | some a, none => readOne s core x ask (a, 4)
     | _, _ => .ok (0, s))
  | .bytes l =>
    l.foldr (fun p f (s : State) =>
      match readOne s core x ask (p, 8) with
      | .error k => .error k
      | .ok (v, s1) => (f s1).map fun (r : Nat × State) => (v + 256 * r.1, r.2)) (fun s => .ok (0, s)) s
  | .queue off => readSource s core x off e

/-- Bytes land in the queue destination: in the first entry of the record that is not ready (R250). -/
def landEntry (now : Nat) (en : Entry) (off e v : Nat) : Entry :=
  let d := BitVec.ofNat 4096 (v % 2 ^ (8 * e) * 2 ^ (8 * (off % 512)))
  let n := en.landed + e
  { en with data := en.data ||| d, landed := n, status := if 512 ≤ n then .ready else en.status,
            readied := if 512 ≤ n then now else en.readied }

def landFirst (now rid off e v : Nat) : List Entry → List Entry
  | [] => []
  | en :: l => if en.filler == some rid && en.status != .ready then landEntry now en off e v :: l else en :: landFirst now rid off e v l

/-- Bitmap bytes of a tile among `n` from an address (07 R130). -/
def bitmapBytes (a n : Nat) : List Nat :=
  ((List.range n).map (a + ·)).filter fun b => decide (0x8800 ≤ b % Config.tileBytes) && decide (b % Config.tileBytes < 0x8840)

/-- Bytes of the queue destination land, unless its generation has ended: then its data is dropped and counted, and the
entry holds zeros (13 R266). -/
def landQueue (s : State) (core : Nat) (x : Rec) (off e v : Nat) : State :=
  let q := x.d0.base % 8
  let w := recWho s core x
  let ok := w.raw || w.current s (.queue core)
  setQueue (if ok then s else countLate s (tagPart x.tag)) core q
    (landFirst (s.cycle + 1) x.id off e (if ok then v else 0) (entriesOf s core q))

/-- Write the value of an element, a part of its line as `k` says; the two halves of a 4-bit pair are one element (R263). -/
def writeRec (s : State) (core : Nat) (x : Rec) (pl : RPlace) (e v : Nat) (t : Trap) (k : Piece) : State :=
  let w := recWho s core x
  let issue := fun (s : State) l => issueParts s (recTid core x) w (x.r.mca == 1) x.d0.handle l
  match pl with
  | .zero => s
  | .loc p =>
    (match p.store with
     | .tiles _ =>
       mapRec (storeCells s { w with piece := k } p.store (cellsOf p.addr (leBytes e v))) core x.id fun r =>
         { r with bitmap := r.bitmap ++ bitmapBytes p.addr e }
     | .host => issue { s with fresh := s.fresh + 1 } [(((p, 8 * e), v, t), k)]
     | _ => issue s [(((p, 8 * e), v, t), k)])
  | .pair lo hi =>
    let same := decide ((lo.map fun p => (p.store, p.addr)) = hi.map fun p => (p.store, p.addr))
    let k0 : Piece := { k with last := k.last && !same, ends := false }
    issue s (match lo, hi with
      | some a, some b => [(((a, 4), v % 16, t), k0), (((b, 4), v / 16 % 16, t), { k with nth := 1 })]
      | some a, none => [(((a, 4), v % 16, t), k)]
      | none, some b => [(((b, 4), v / 16 % 16, t), k)]
      | none, none => [])
  | .bytes l =>
    issue s (l.zipIdx.map fun p =>
      (((p.1, 8), v / 256 ^ p.2 % 256, t), { nth := p.2, ends := p.2 + 1 == l.length }))
  | .queue off => landQueue s core x off e v

/-! ## Faults of records (R246, R247) -/

/-- A record's report of a cause: its issue address, counter and number. -/
def recTrap (x : Rec) (t : Trap) : Trap := { t with eng := true, issue := x.pc.toNat, upc := x.upc, rid := some x.id }

/-- Cause 0x20 with a reason, reported at the issue address. -/
def reasonTrap (x : Rec) (reason : Nat) : Trap := { cause := 0x20, reason, kind := 1, info := x.pc.toNat }

/-- An entry that a record has reserved in its queue destination and not filled. -/
def unfilled (rid : Nat) (e : Entry) : Bool := e.filler == some rid && e.status != .ready

/-- The unready entries of a queue destination are removed; the record goes back to the first byte of the first of them, and
keeps who had reserved them (R250, R251, R195) (DEDUCED, log 31). -/
def dropUnready (s : State) (core : Nat) (x : Rec) : State :=
  if x.d0.space = 9 ∧ x.op = .cp then
    let q := x.d0.base % 8
    let per := 512 / (x.sizes s core).1
    let l := entriesOf s core q
    let s1 := setQueue s core q (l.filter fun e => !unfilled x.id e)
    mapRec s1 core x.id fun r =>
      { r with upc := r.upc / per * per, gone := (l.filter (unfilled x.id)).map fun e => (e.issue, e.taker) }
  else s

/-- A record stops at its counter, held, and its cause becomes pending on its thread; a later try asks the host node anew. -/
def recFault (s : State) (core : Nat) (x : Rec) (t : Trap) : State :=
  let s1 := dropUnready (mapRec s core x.id fun r => { r with status := .held }) core x
  addPend { s1 with fresh := s1.fresh + 1 } (recTid core x) (recTrap x t)

/-- An entry put back at its place in the order of pushes. -/
def putBack (e : Entry) : List Entry → List Entry
  | [] => [e]
  | a :: l => if e.issue < a.issue then e :: a :: l else a :: putBack e l

/-- Entries of a queue destination that a fault has taken are reserved again at their places, and for the records that had
reserved them, if they fit (R250, R251) (DEDUCED, log 31). -/
def reserveAgain (s : State) (core : Nat) (x : Rec) : Option State :=
  if x.gone.isEmpty then some s
  else
    let q := x.d0.base % 8
    let l := entriesOf s core q
    if 16 < l.length + x.gone.length then none
    else
      let l1 := x.gone.foldl (fun l g =>
        putBack { status := .asked [], tag := x.tag, filler := some x.id, issue := g.1, taker := g.2 } l) l
      some (mapRec (setQueue s core q l1) core x.id fun r => { r with gone := [] })

end Sys2Proof.Machine
end

