-- ==== Sys2Proof/Machine/Matrix.lean ====
section
/-! DEFINITION. Matrix records: their checks at start, their products, the cooperative product and the array's tenures
(05 R86-R92; 07 R128-R150). -/

namespace Sys2Proof.Machine

open Sys2Proof

/-! ## Operands -/

/-- An operand tile or image as a step reads it. -/
structure MTile where
  desc : TileDesc
  /-- Rows as little-endian numbers. -/
  rows : List Nat
  scales : Nat
  bitmap : List Nat
deriving DecidableEq, Repr

/-- Byte location of an operand: a tile of the leader, or an image (R141, R143); `k` counts tiles or images. -/
def operandAt (core : Nat) (d : RDesc) (k : Int) : Place :=
  if d.space = 6 then { store := .tiles core, addr := tileAddr ((d.tile : Int) + k).toNat 0 }
  else
    let a := ((d.off : Int) + k * Config.tileBytes).toNat
    if d.space = 4 then { store := .bank (d.bankDie core), addr := a } else { store := .near (d.nearCore core), addr := a }

/-- The number of steps or images between an operand's base and step `t` of block coordinate `i` along stride `k`. -/
def operandStep (d : RDesc) (k t i : Nat) : Int := (t : Int) * d.stride 0 + (i : Int) * d.stride k

/-- The 8-byte locations of `n` bytes at an offset of an operand. -/
def operandLocs (p : Place) (off n : Nat) : List Loc :=
  (List.range (n / 8)).map fun i => ({ p with addr := p.addr + off + 8 * i }, 64)

/-- A number from 8-byte values. -/
def joinWords (l : List Nat) : Nat := l.foldr (fun v n => v + 2 ^ 64 * n) 0

/-- An operand's descriptor. -/
def operandDesc (s : State) (core : Nat) (x : Rec) (p : Place) : Except ReadStop (TileDesc × State) :=
  (readLocsAs s (recTid core x) (recWho s core x) (operandLocs p 0x8840 8)).map fun r => (tileDescOf (joinWords r.1), r.2)

/-- An operand: rows, bitmap and descriptor, and the scales where its type has them. -/
def readOperand (s : State) (core : Nat) (x : Rec) (scaled : Bool) (p : Place) : Except ReadStop (MTile × State) :=
  let rd := fun (s : State) off n => readLocsAs s (recTid core x) (recWho s core x) (operandLocs p off n)
  match rd s 0 0x8000 with
  | .error e => .error e
  | .ok (d, s1) =>
    match rd s1 0x8800 0x48 with
    | .error e => .error e
    | .ok (b, s2) =>
      let t : MTile := { desc := tileDescOf (b.getD 8 0), scales := 0, bitmap := b.take 8,
                         rows := (List.range 64).map fun r => joinWords ((d.drop (64 * r)).take 64) }
      if !scaled then .ok (t, s2)
      else
        match rd s2 0x8000 0x800 with
        | .error e => .error e
        | .ok (c, s3) => .ok ({ t with scales := joinWords c }, s3)

/-- Is the type a microscaling one? -/
def isMx (t : Ty) : Bool :=
  match t with
  | .mx4 | .mx6 | .mx8 | .mx10 | .mx12 | .mx14 | .mx16 => true
  | _ => false

/-- Group size of an operand (R140). -/
def groupLen (t : Ty) (d : TileDesc) : Nat := if isMx t && d.gsz == 1 then 16 else 32

/-- Element `k` of a row is unmarked (R128). -/
def unmarked (t : Ty) (m : MTile) (row k : Nat) : Bool := !(m.bitmap.getD (row / 8) 0).testBit (k / unitElems t)

/-- A row's elements in groups of `g`: whether each is unmarked, and its code. -/
def rowGroups (t : Ty) (m : MTile) (klen g row : Nat) : List (List (Bool × Int)) :=
  (List.range (klen / g)).map fun j => (List.range g).map fun i =>
    let k := j * g + i
    let c := rowCode t (m.rows.getD row 0) k
    (unmarked t m row k, if t = .m64 then (c : Int) else signedOf (codeBits t) c)

/-- The exact sum of the products of a group, or none where no pair is unmarked in both (R88, R141). -/
def groupSum (a b : List (Bool × Int)) : Option Int :=
  let l := (a.zip b).filter fun x => x.1.1 && x.2.1
  if l.isEmpty then none else some (l.foldl (fun n x => n + x.1.2 * x.2.2) 0)

/-- An E8M0 scale (R128). -/
def scaleAt (m : MTile) (row j : Nat) : Nat := m.scales / 2 ^ (8 * (32 * row + j)) % 256

/-! ## Accumulation (R89-R91) -/

/-- How a record accumulates. -/
inductive Accum where
  | f32
  | i32 (sat : Bool)
deriving DecidableEq, Repr

/-- The value of a group (R88). -/
def groupValue (t : Ty) (sum : Int) (ea eb : Nat) : Num :=
  if !isMx t then Num.ofInt sum
  else if ea = 0xFF ∨ eb = 0xFF then .nan false
  else Num.scale ((ea : Int) + eb - 254 - 2 * (mxBits t - 2 : Nat)) (Num.ofInt sum)

/-- One group step on an element. -/
def groupStep (a : Accum) (t : Ty) (c : Nat) (sum : Int) (ea eb : Nat) : Nat × Flags :=
  match a with
  | .f32 =>
    let r := Num.add (floatOf .f32 c) (groupValue t sum ea eb)
    let y := roundFloat .f32 r.1
    (y.1, r.2 ||| y.2)
  | .i32 sat => (wrapBits 32 (clampInt .i32 (if sat then 1 else 0) (signedOf 32 c + sum)), 0)

/-- An element over one K-step: groups in increasing K (R141). -/
def elemStep (a : Accum) (t : Ty) (A B : MTile) (ga gb : List (List (Bool × Int))) (m n c : Nat) : Nat × Flags :=
  (ga.zip gb).zipIdx.foldl (fun (acc : Nat × Flags) g =>
    match groupSum g.1.1 g.1.2 with
    | none => acc
    | some sum =>
      let r := groupStep a t acc.1 sum (scaleAt A m g.2) (scaleAt B n g.2)
      (r.1, acc.2 ||| r.2)) (c, 0)

/-- A block of 64 × 64 elements over one K-step: the elements row by row, and the flags. -/
def blockStep (a : Accum) (t : Ty) (A B : MTile) (C : List Nat) : List Nat × Flags :=
  let k := klenOf t A.desc
  let g := groupLen t A.desc
  let ra := (List.range 64).map (rowGroups t A k g)
  let rb := (List.range 64).map (rowGroups t B k g)
  let out := (ra.zipIdx.flatMap fun m => rb.zipIdx.map fun n => (m, n)).zipWith
    (fun mn c => elemStep a t A B mn.1.1 mn.2.1 mn.1.2 mn.2.2 c) C
  (out.map (·.1), orFlags (out.map (·.2)))

/-- The same modulo `q` (R91, R147). -/
def blockMod (q : Nat) (A B : MTile) (C : List Nat) : List Nat × Flags :=
  if !modValid q then (C.map fun _ => 0, fMOD)
  else
    let k := klenOf .m64 A.desc
    let row := fun (m : MTile) r => (rowGroups .m64 m k k r).headD []
    let ra := (List.range 64).map (row A)
    let rb := (List.range 64).map (row B)
    ((ra.flatMap fun m => rb.map fun n => (m, n)).zipWith
      (fun mn (c : Nat) => modQ q ((c : Int) + (groupSum mn.1 mn.2).getD 0)) C, 0)

/-! ## Accumulator tiles (R129) -/

/-- Bytes of an accumulator element. -/
def accBytes (op : RecOp) : Nat := if op = .mmod then 8 else 4

/-- The 4,096 elements of a block of a tile. -/
def readAcc (s : State) (x : Rec) (core owner tile half : Nat) : Except Nat (List Nat) :=
  let n := accBytes x.op
  (tileRead s (recWho s core x) owner tile (0x4000 * half) (4096 * n)).map fun l =>
    (List.range 4096).map fun i => leNat ((l.drop (n * i)).take n)

/-- A block of a core's tile, written under a tag that has ended there: nothing is written and each element is counted
(13 R266). -/
def lateBlock (s : State) (x : Rec) (owner : Nat) : Bool :=
  owns s (tagPart x.tag) (.tiles owner) 0 && !passes s { tag := x.tag } (.tiles owner) 0

/-- Write a block of a tile. -/
def writeAcc (s : State) (x : Rec) (core owner tile half : Nat) (C : List Nat) : State :=
  if lateBlock s x owner then countLateN s (tagPart x.tag) 4096
  else tileWrite s (recWho s core x) owner tile (0x4000 * half) (C.flatMap (leBytes (accBytes x.op)))

/-! ## Checks at start (R139, R140, R143, R149) -/

/-- Reasons every matrix record shares: overridden BASE bits aside. -/
def descReasons (d : RDesc) : List Nat := if d.resv || d.unit != 0 then [5] else []
/-- A stride that the record does not use is nonzero. -/
def strideReasons (d : RDesc) (unused : List Nat) : List Nat := if unused.any fun k => d.stride k != 0 then [5] else []

/-- The operand type, where the record accepts it with its accumulator (R140). -/
def mulTy (x : Rec) : Option Ty :=
  if x.d2.typ ≠ x.d1.typ then none
  else
    match inputTy x.d1.typ with
    | some .m64 => if x.op = .mmod ∧ x.d0.typ = 0x0C then some .m64 else none
    | some t =>
      if x.op = .mmod then none
      else if isMx t then (if x.d0.typ = 0x12 then some t else none)
      else if x.d0.typ = 0x12 ∨ x.d0.typ = 0x06 then some t else none
    | none => none

/-- How the record accumulates. -/
def accumOf (x : Rec) : Accum := if x.d0.typ = 0x12 then .f32 else .i32 (x.r.aux.getLsbD 0)

/-- K-steps to look at: past these every stride is 0 or has left its space. -/
def stepsToCheck (x : Rec) : Nat :=
  if x.d1.stride 0 = 0 ∧ x.d2.stride 0 = 0 then 1 else min (trip x.r 0) 4096

/-- Tile numbers of an operand over its steps and blocks. -/
def operandTiles (x : Rec) (d : RDesc) (k n : Nat) : List Int :=
  if d.space = 6 then operandSteps d k n (trip x.r 0) else []

/-- Rows and columns of blocks: 1 but for `mmulc`. -/
def rowsOf (x : Rec) : Nat := if x.op = .mmulc then min (trip x.r 1) 32 else 1
def colsOf (x : Rec) : Nat := if x.op = .mmulc then min (trip x.r 2) 32 else 1

/-- A tile number lies outside 0-15. -/
def tileOut (t : Int) : Bool := decide (t < 0) || decide (15 < t)

/-- C tiles of a record on participant `k`. -/
def accTiles (x : Rec) (k : Nat) : List Nat := if x.op = .mmulc then cTiles x.r x.ov k else [x.d0.tile]

/-- CORES breaks R143. -/
def coresBad (s : State) (core : Nat) (x : Rec) : Bool :=
  let l := coresOf x.r
  let pk := fun c => dieOf core * 64 + c
  l.isEmpty || decide (16 < l.length) || isSvc core || !l.contains (core % 64)
    || ((l.map (· / 4)).eraseDups.length != l.length) || l.any fun c => partOf s (pk c) != tagPart x.tag

/-- The reasons that need no tile. -/
def mulReasons (s : State) (core : Nat) (x : Rec) : List Nat :=
  let d0 := x.d0
  let d1 := x.d1
  let d2 := x.d2
  let coop := x.op == .mmulc
  let spOk := fun (d : RDesc) => d.space == 6 || (coop && (d.space == 1 || d.space == 2 || d.space == 4))
  let ab := operandTiles x d1 1 (rowsOf x) ++ operandTiles x d2 2 (colsOf x)
  let parts := if coop then List.range (coresOf x.r).length else [0]
  let cs := parts.flatMap (accTiles x)
  let mine := accTiles x (if coop then leaderIndex core x.r else 0)
  let sat := x.op != .mmod && x.r.aux.getLsbD 0 && d0.typ != 0x06
  (if d0.space != 6 || !spOk d1 || !spOk d2 then [1] else [])
    ++ (if ab.any tileOut || cs.any (fun t => decide (15 < t)) then [2] else [])
    ++ (if (mulTy x).isNone then [3] else [])
    ++ (if sat || (!coop && (trip x.r 1 != 1 || trip x.r 2 != 1)) || trip x.r 3 != 1
          || (coop && (decide (8 < trip x.r 1) || decide (16 < trip x.r 2))) then [5] else [])
    ++ descReasons d0 ++ descReasons d1 ++ descReasons d2
    ++ (if coop then [] else strideReasons d0 [0, 1, 2, 3])
    ++ strideReasons d1 (if coop then [2, 3] else [1, 2, 3]) ++ strideReasons d2 (if coop then [1, 3] else [1, 2, 3])
    ++ (if ab.any fun t => mine.any fun c => t == (c : Int) then [6] else [])
    ++ (if coop && coresBad s core x then [7] else [])
    ++ (if (d0.off != 0 && !(x.op != .mmod && d0.off == 0x4000)) || (d1.space == 6 && d1.off != 0)
          || (d2.space == 6 && d2.off != 0) then [9] else [])

/-- The reasons of `mtr` (R148, R149) (DEDUCED, log 31). -/
def mtrReasons (x : Rec) : List Nat :=
  let d0 := x.d0
  let d1 := x.d1
  let d2 := x.d2
  let ty := tyOf (BitVec.ofNat 7 d1.typ)
  let b := (ty.map Ty.width).getD 8 * 8
  (if d0.space != 6 || d1.space != 6 || d2.space != 0 then [1] else [])
    ++ (if ty.isNone then [3] else [])
    ++ (if x.r.w1 != 0 || d2.first != 0 || d2.second != 0 then [5] else [])
    ++ descReasons d0 ++ descReasons d1 ++ strideReasons d0 [0, 1, 2, 3] ++ strideReasons d1 [0, 1, 2, 3]
    ++ (if d0.off % b != 0 || d1.off % b != 0 || decide (512 ≤ d0.off) || decide (512 ≤ d1.off) then [9] else [])

/-- An image operand's window and alignment: cause 0x15 before 0x14 (R143, 10 R180) (DEDUCED, log 32). -/
def imageCheck (s : State) (core : Nat) (x : Rec) (d : RDesc) (k : Nat) : Option Trap :=
  if d.space = 6 then none
  else
    match operandRange core x.r d k with
    | g :: _ =>
      let p := tagPart x.tag
      (match windowPlace s core p d g.lo Config.tileBytes, windowPlace s core p d (g.hi - Config.tileBytes) Config.tileBytes with
       | .error t, _ => some t
       | _, .error t => some t
       | .ok _, .ok _ => if d.off % 128 ≠ 0 then some (flatTrap 0x14 (windowAddr d d.off)) else none)
    | [] => none

/-- The reasons one operand's descriptor gives (R140). -/
def sideReasons (t : Ty) (d : TileDesc) : List Nat :=
  let k := klenOf t d
  (if d.ty != tyCode t then [3] else []) ++
    (if rowCap t < k ∨ (t ≠ .m64 ∧ k % groupLen t d ≠ 0) ∨ ((t = .mx4 ∨ t = .m64) ∧ d.gsz = 1) then [4] else [])

/-- The reasons a pair of operand descriptors gives for a step (R140). -/
def pairReasons (t : Ty) (a b : TileDesc) : List Nat :=
  sideReasons t a ++ sideReasons t b ++ (if klenOf t a ≠ klenOf t b ∨ (isMx t ∧ a.gsz ≠ b.gsz) then [4] else [])

/-- What a poisoned operand reports: the window address of the first poisoned line of an image; a tile has none (R143;
14 R283) (DEDUCED, log 32). -/
def operandTrap (s : State) (core : Nat) (x : Rec) (d : RDesc) (p : Place) (c : Nat) : Trap :=
  if d.space = 6 then { cause := c }
  else
    let w := recWho s core x
    let u := ((memOf s p.store).poison.find? fun e =>
      decide (unitOf p.store p.addr ≤ e.1) && decide (e.1 ≤ unitOf p.store (p.addr + Config.tileBytes - 1))
        && seesAt s w p.store (unitRange p.store e.1).1 ((memOf s p.store).tag e.1)).map (·.1)
    flatTrap c (windowAddr d (match u with | some k => max p.addr (unitRange p.store k).1 | none => p.addr))

/-- An operand's descriptor as the checks at start see it: nothing where its image may not be read, or is poisoned. -/
inductive DescSeen where
  | wait
  | none
  | poison (t : Trap)
  | some (d : TileDesc)
deriving DecidableEq, Repr

def seeDesc (s : State) (core : Nat) (x : Rec) (d : RDesc) (bad : Bool) (p : Place) : DescSeen :=
  if bad then .none
  else
    match operandDesc s core x p with
    | .error (.wait _) => .wait
    | .error (.cause c) => .poison (operandTrap s core x d p c)
    | .ok r => .some r.1

/-- The reasons that what is seen of a pair gives. -/
def seenReasons (t : Ty) (a b : DescSeen) : List Nat :=
  match a, b with
  | .some a, .some b => pairReasons t a b
  | .some a, _ => sideReasons t a
  | _, .some b => sideReasons t b
  | _, _ => []

/-- What is seen of the operands' descriptors in every step of every block; `badA` and `badB` where images may not be read. -/
def stepDescs (s : State) (core : Nat) (x : Rec) (badA badB : Bool) : List (DescSeen × DescSeen) :=
  let pairs := (List.range (stepsToCheck x)).flatMap fun k => (List.range (rowsOf x)).flatMap fun i =>
    (List.range (colsOf x)).map fun j => (operandAt core x.d1 (operandStep x.d1 1 k i), operandAt core x.d2 (operandStep x.d2 2 k j))
  pairs.eraseDups.map fun pq => (seeDesc s core x x.d1 badA pq.1, seeDesc s core x x.d2 badB pq.2)

/-- The first poison seen. -/
def seenPoison (l : List (DescSeen × DescSeen)) : Option Trap :=
  (l.flatMap fun p => [p.1, p.2]).findSome? fun d => match d with | .poison t => some t | _ => none

/-- Lowest reason of a list. -/
def leastReason (l : List Nat) : Nat := l.foldl min 0xFF

/-- What a check at start finds: a wait for a read, a cause, or nothing. -/
inductive StartStop where
  | wait
  | cause (t : Trap)
deriving DecidableEq, Repr

/-- An overridden BASE with bits outside its fields (04 R67). -/
def ovCheck (x : Rec) : Option Trap :=
  ([x.d0, x.d1, x.d2].find? (·.ovBad)).map fun d => flatTrap 0x15 d.base

/-- The checks of a matrix record at start: the lowest reason of all, then the cause of an image, then poison (R149). -/
def matrixCheck (s : State) (core : Nat) (x : Rec) : Option StartStop :=
  let fail := fun l => some (.cause (reasonTrap x (leastReason l)))
  match ovCheck x with
  | some t => some (.cause t)
  | none =>
    if x.op = .mtr then (if (mtrReasons x).isEmpty then none else fail (mtrReasons x))
    else
      let l := mulReasons s core x
      match mulTy x, l.any (fun r => decide (r < 3)) with
      | some t, false =>
        let image := fun d k => if x.op = .mmulc then imageCheck s core x d k else none
        let a := image x.d1 1
        let b := image x.d2 2
        let seen := stepDescs s core x a.isSome b.isSome
        let all := l ++ seen.flatMap fun p => seenReasons t p.1 p.2
        if seen.any fun p => p.1 == .wait || p.2 == .wait then some .wait
        else if !all.isEmpty then fail all
        else (a <|> b <|> seenPoison seen).map .cause
      | _, _ => fail l

/-! ## Grants (R136, R144; 11 R223) -/

/-- `LEASE_GRANT`: a free array goes to the oldest waiter, if that is a core with a claim. -/
def execLeaseGrant (group : Nat) (s : State) : Out :=
  let s0 := settleTenure s group
  .next (match oldest (waiters s0 group) with
    | some w =>
      if arrayFree s0 group && w.coop.isNone then
        let l := (s0.core w.core).lease
        setLease s0 w.core { l with tenure := true, since := s0.cycle, recs := 0, completed := false, asker := none }
      else s0
    | none => s0)

/-- A record of the core's tenure is running: one it leads that waits for arrays, or holds them, has tenures of its own (R144). -/
def matrixRunning (c : Core) : Bool := c.matQ.any fun r => r.op.isPlain && r.status == .running

/-- `TENURE_TIMEOUT`: 4,096 cycles since the grant with no record running. -/
def execTenureTimeout (group : Nat) (s : State) : Out :=
  .next ((groupCores group).foldl (fun s c =>
    let x := s.core c
    if x.lease.tenure && decide (4096 ≤ s.cycle - x.lease.since) && !matrixRunning x then endTenure s c else s) s)

/-- A plain record's completion in its tenure (R136). -/
def tenureRecord (s : State) (core : Nat) : State :=
  let l := (s.core core).lease
  if !l.tenure then s
  else
    let s1 := setLease s core { l with completed := true }
    if 16 ≤ l.recs ∨ 4096 ≤ s.cycle - l.since then endTenure s1 core else settleTenure s1 (groupOf core)

/-! ## The cooperative product (R143-R146) -/

/-- Reservations of a cooperative record: the owning core, the tile, and whether it is written (R146). -/
def wantedTiles (core : Nat) (x : Rec) : List (Nat × Nat × Bool) :=
  ((List.range (coresOf x.r).length).flatMap fun k => (accTiles x k).map fun t => (participant core x k, t, true))
    ++ ((operandTiles x x.d1 1 (rowsOf x) ++ operandTiles x x.d2 2 (colsOf x)).eraseDups.map fun t => (core, t.toNat, false))

/-- A started record of the owner or another reservation touches a wanted tile in a write-involving way. -/
def wantBlocked (s : State) (core : Nat) (x : Rec) (w : Nat × Nat × Bool) : Bool :=
  let o := s.core w.1
  (o.reservations.any fun r => r.tile == w.2.1 && (r.write || w.2.2) && !(r.leader == core && r.rid == x.id))
    || o.records.any fun r => !(w.1 == core && r.id == x.id) && (r.status == .running || (r.status == .held && r.started))
      && (rangesOf s w.1 r).any fun g => g.sp == .tile w.2.1 && (g.write || w.2.2)

/-- Every wanted tile is reserved. -/
def reserveTiles (s : State) (core : Nat) (x : Rec) : State :=
  (wantedTiles core x).foldl (fun s w =>
    let o := s.core w.1
    s.setCore w.1 { o with reservations := o.reservations ++ [{ leader := core, rid := x.id, tile := w.2.1, write := w.2.2 }] }) s

/-- An array held by a cooperative record goes back to its group; a claim there waits from now on (R138, which does not say
whether its age goes on) (DESIGN CHOICE, log 76). -/
def returnArray (s : State) (core rid k : Nat) : State :=
  match findRec s core rid with
  | none => s
  | some x =>
    let c := participant core x k
    let s1 := s.setGroup (groupOf c) { s.group (groupOf c) with lent := none }
    let s2 := setLease s1 c { (s1.core c).lease with lender := none, waitFrom := s1.cycle }
    mapRec s2 core rid fun r => { r with arrays := r.arrays.filter (· != k) }

/-- All the arrays a record holds go back (DEDUCED, log 32). -/
def returnArrays (s : State) (core rid : Nat) : State :=
  match findRec s core rid with
  | none => s
  | some x => x.arrays.foldl (fun s k => returnArray s core rid k) s

/-- Unstarted blocks of a participant. -/
def unstarted (x : Rec) (k : Nat) : List Nat :=
  (List.range (blocksOf x.r)).filter fun q =>
    (blockAt x.r x.ov q).owner == k && !x.doneBlocks.contains q && !x.work.any fun w => w.block == q

/-- The participant with the most unstarted blocks, the lowest of several. -/
def richest (x : Rec) : Option Nat :=
  let n := fun k => (unstarted x k).length
  (List.range (coresOf x.r).length).foldl (fun best k =>
    match best with
    | none => if n k = 0 then none else some k
    | some b => if n b < n k then some k else some b) none

/-- The next block of an array: its own lowest, or one it steals (R145). -/
def nextBlock (x : Rec) (k : Nat) : Option ArrayWork :=
  match (unstarted x k).head? with
  | some q => some { array := k, block := q, stolen := false }
  | none =>
    match richest x with
    | some b => (unstarted x b).getLast?.map fun q => { array := k, block := q, stolen := true }
    | none => none

/-! ## Records while threads are being stopped (10 R197; 11 R227; 12 R245; 14 R290) -/

/-- The members of a collective and the records that match: `none` for one that has not issued it yet (R255). -/
def collMembers (s : State) (core : Nat) (x : Rec) : List (Nat × Option Rec) :=
  (membersOf s core x.r.scp.toNat).map fun c =>
    (c, (s.core c).collQ.find? fun r => r.op == .coll && r.r.scp == x.r.scp && r.collNo == x.collNo)

/-- A cut's counts keep the collective from starting (14 R290 step 2). -/
def cutHolds (s : State) (core : Nat) (x : Rec) : Bool :=
  s.cuts.any fun c => groupRuns s (groupOf core) c.job && !c.counts.isEmpty
    && decide (tget c.counts x.r.scp.toNat 0 < x.collNo)

/-- The matching records of a collective have all been issued, and no cut keeps it back; one of no domain level waits for
none (R255; 14 R290). -/
def collMatched (s : State) (core : Nat) (x : Rec) : Bool :=
  x.op != .coll || decide (x.r.scp.toNat < 2) ||
    (!cutHolds s core x && (collMembers s core x).all (·.2.isSome)
      && (x.r.scp != 5 || (collMembers s core x).length == (s.core core).domain.toNat / 2 ^ 32 % 2 ^ 16))

/-- Two records have ranges that conflict (R220). -/
def rangesHit (s : State) (core : Nat) (a b : Rec) : Bool :=
  (rangesOf s core a).any fun x => (rangesOf s core b).any fun y => x.hits y

/-- A queued record waits for one of `l` (cores and numbers): in its queue, by its ranges, by a reservation, or for tiles that a
cooperative record asks for. -/
def queuedBehind (s : State) (l : List (Nat × Nat)) (core : Nat) (x : Rec) : Bool :=
  let c := s.core core
  ((queueOf c x).any fun r => r.status == .held ||
      (decide (r.id < x.id) && l.contains (core, r.id) && (x.op.isMatrix || r.status == .queued)))
    || (c.records.any fun r => r.op != .note && decide (r.id < x.id) && l.contains (core, r.id) && rangesHit s core r x)
    || (c.reservations.any fun v => l.contains (v.leader, v.rid) &&
          (rangesOf s core x).any fun g => g.sp == .tile v.tile && (g.write || v.write))
    || (x.op == .mmulc && (wantedTiles core x).any fun w =>
          ((s.core w.1).reservations.any fun v => l.contains (v.leader, v.rid) && v.tile == w.2.1 && (v.write || w.2.2))
            || (s.core w.1).records.any fun r => r.started && l.contains (w.1, r.id) &&
                 (rangesOf s w.1 r).any fun g => g.sp == .tile w.2.1 && (g.write || w.2.2))

/-- The source entries of a copy are not to come: their own record does not fill them, or a thread has still to push them. -/
def sourceShort (s : State) (l : List (Nat × Nat)) (core : Nat) (x : Rec) : Bool :=
  x.op == .cp && x.d1.space == 9 &&
    ((tget (s.core core).owed (x.d1.base % 8) []).contains x.id ||
      (entriesOf s core (x.d1.base % 8)).any fun e => e.taker == some x.id && e.filler.any fun f => l.contains (core, f))

/-- A record makes no more way while its threads stand, if those of `l` make none: it is held by a fault, waits for one of them, or
for the threads. -/
def stuckBy (s : State) (l : List (Nat × Nat)) (core : Nat) (x : Rec) : Bool :=
  x.op != .note &&
    (x.status == .held || (x.status == .queued && queuedBehind s l core x) || sourceShort s l core x
      || (x.op == .coll && (!collMatched s core x ||
            (collMembers s core x).any fun m => m.2.any fun r => l.contains (m.1, r.id))))

/-- The records of a partition, each with its core. -/
def partRecords (s : State) (p : Nat) : List (Nat × Rec) := (liveCores s p).flatMap fun c => (s.core c).records.map (c, ·)

/-- Those that make no more way while its threads stand. -/
def stuckRecs (s : State) (p : Nat) : List (Nat × Nat) :=
  let rs := partRecords s p
  rs.foldl (fun l _ => (rs.filter fun r => stuckBy s l r.1 r.2).map fun r => (r.1, r.2.id)) []

/-- A pending entry that one of the records `l`, or no record, is to fill: it settles no more before the switch (R227 step 3; 12 R247)
(DESIGN CHOICE, log 90). -/
def entryStuck (s : State) (l : List (Nat × Nat)) (core : Nat) (e : Entry) : Bool :=
  match e.filler with
  | some rid => l.contains (core, rid) || (findRec s core rid).isNone
  | none => false

/-- Some entry of a core that is being stopped is still to be filled by a record that can do so: every pending entry settles before
records stop (10 R197; 11 R227 step 3). -/
def fillsQueues (s : State) (p : Nat) : Bool :=
  let l := stuckRecs s p
  (liveCores s p).any fun c => ((s.part p).switching.isSome || cutStops s c) &&
    (s.core c).queues.any fun q => q.2.any fun e => e.filler.isSome && e.status != .ready && !entryStuck s l c e

/-- A stop has come to the records of a core: they issue nothing new (R227 step 4; 12 R245; 14 R290). -/
def recStops (s : State) (core : Nat) : Bool :=
  ((s.part (partOf s core)).switching.isSome || cutStops s core) && !fillsQueues s (partOf s core)

/-- An array takes its next block, or goes back where none is left. -/
def takeBlock (s : State) (core rid k : Nat) : State :=
  match findRec s core rid with
  | none => s
  | some x =>
    match if x.fault.isSome || recStops s core then none else nextBlock x k with
    | some w => mapRec s core rid fun r => { r with work := r.work ++ [w] }
    | none => returnArray s core rid k

/-- A leader that begins to wait for its next array may end a tenure there (R136). -/
def waitNext (s : State) (core rid : Nat) : State :=
  match (findRec s core rid).bind fun x => (nextArray x).map (participant core x) with
  | some c => settleTenure s (groupOf c)
  | none => s

/-- `MMULC_ARRAY_GRANT`: the leader is granted the next array, if it is the oldest waiter for it; once every array is
held, the blocks start, lower participants first. -/
def execMmulcArrayGrant (core rid : Nat) (s : State) : Out :=
  .next (match findRec s core rid with
    | none => s
    | some x =>
      match nextArray x with
      | none => s
      | some k =>
        let c := participant core x k
        let g := groupOf c
        let s0 := settleTenure s g
        match oldest (waiters s0 g) with
        | some w =>
          if arrayFree s0 g && w.coop == some (core, rid) then
            let s1 := s0.setGroup g { s0.group g with lent := some (core, rid) }
            let s2 := setLease s1 c { (s1.core c).lease with lender := some (core % 64) }
            let s3 := mapRec s2 core rid fun r => { r with arrays := r.arrays ++ [k], waitFrom := s.cycle }
            let ks := List.range (coresOf x.r).length
            if x.arrays.length + 1 = ks.length then ks.foldl (fun s k => takeBlock s core rid k) s3 else waitNext s3 core rid
          else s0
        | none => s0)

/-- Why a step of a matrix record stops: a wait, or a cause. -/
abbrev StepStop := Option Trap

/-- A read of an operand or of C as a step reports it. -/
def stopAt (s : State) (core : Nat) (x : Rec) (d : RDesc) (p : Place) : ReadStop → StepStop
  | .wait _ => none
  | .cause c => some (operandTrap s core x d p c)

/-- A plain matrix record stops: it waits, or it is held. -/
def plainStop (s : State) (core : Nat) (x : Rec) : StepStop → State
  | none => s
  | some t => recFault s core x t

/-- A cooperative record with a fault is held once no array has a block at work (R150). -/
def faultEnd (s : State) (core rid : Nat) : State :=
  match findRec s core rid with
  | none => s
  | some x =>
    match x.fault with
    | some t =>
      if x.work.isEmpty then
        recFault (mapRec (returnArrays s core rid) core rid fun r => { r with fault := none }) core { x with fault := none } t
      else s
    | none => s

/-- An array's block stops on a read: it waits; or it is not written, its array goes back, and the blocks at work on other
arrays run to their ends before the record is held (R150) (DEDUCED, log 32). -/
def blockStop (s : State) (core rid array : Nat) : StepStop → State
  | none => s
  | some t =>
    let s1 := mapRec s core rid fun r => { r with work := r.work.filter (·.array != array), fault := r.fault <|> some t }
    faultEnd (returnArray s1 core rid array) core rid

/-- A block over K-steps from `t` on. -/
def runSteps (s : State) (core : Nat) (x : Rec) (t : Ty) (i j : Nat) : Nat → Nat → List Nat × Flags →
    Except StepStop (List Nat × Flags × State)
  | 0, _, c => .ok (c.1, c.2, s)
  | n + 1, k, c =>
    let pa := operandAt core x.d1 (operandStep x.d1 1 k i)
    let pb := operandAt core x.d2 (operandStep x.d2 2 k j)
    match readOperand s core x (isMx t) pa with
    | .error e => .error (stopAt s core x x.d1 pa e)
    | .ok (a, s1) =>
      match readOperand s1 core x (isMx t) pb with
      | .error e => .error (stopAt s core x x.d2 pb e)
      | .ok (b, s2) =>
        let r := if x.op = .mmod then blockMod x.q.toNat a b c.1 else blockStep (accumOf x) t a b c.1
        runSteps s2 core x t i j n (k + 1) (r.1, c.2 ||| r.2)

/-- Mask of completed blocks (R150). -/
def blockMask (l : List Nat) : Nat := l.foldl (fun n q => n + 2 ^ q) 0

/-- `MATRIX_BLOCK_COMPLETE`: an array's block is computed and written at its owner; the array goes on (DEDUCED, log 32). -/
def execMatrixBlockComplete (core rid array : Nat) (s : State) : Out :=
  .next (match findRec s core rid with
    | none => s
    | some x =>
      match x.work.find? fun w => w.array == array, mulTy x with
      | some w, some t =>
        if x.status != .running then s
        else
          let b := blockAt x.r x.ov w.block
          let o := participant core x b.owner
          match readAcc s x core o b.tile b.half with
          | .error c => blockStop s core rid array (some { cause := c })
          | .ok c0 =>
            match runSteps s core x t b.i b.j (trip x.r 0) 0 (c0, 0) with
            | .error e => blockStop s core rid array e
            | .ok (c, fl, s1) =>
              let done := x.doneBlocks ++ [w.block]
              let s2 := mapRec (writeAcc s1 x core o b.tile b.half c) core rid fun r =>
                { r with doneBlocks := done, work := r.work.filter (· != w), flags := r.flags ||| fl, upc := blockMask done }
              faultEnd (takeBlock s2 core rid array) core rid
      | _, _ => s)

/-! ## Steps of the plain records -/

/-- One K-step of `mmul` or `mmod` (R141, R147). -/
def mulStep (s : State) (core : Nat) (x : Rec) (t : Ty) : State :=
  let half := x.d0.off / 0x4000
  match readAcc s x core core x.d0.tile half with
  | .error c => plainStop s core x (some { cause := c })
  | .ok c0 =>
    match runSteps s core x t 0 0 1 x.upc (c0, 0) with
    | .error e => plainStop s core x e
    | .ok (c, fl, s1) =>
      let last := x.upc + 1 = trip x.r 0
      let s2 := if !lateBlock s1 x core ∨ last then writeAcc s1 x core core x.d0.tile half c else s1
      mapRec s2 core x.id fun r => { r with upc := r.upc + 1, flags := r.flags ||| fl }

/-- The transposed rows of a block of 64 rows of `e`-bit elements (R148). -/
def transposed (e : Nat) (rows : List Nat) : List Nat :=
  (List.range 64).map fun r => rows.foldr (fun x n => x / 2 ^ (e * r) % 2 ^ e + 2 ^ e * n) 0

/-- `mtr`, read whole before it is written. -/
def mtrStep (s : State) (core : Nat) (x : Rec) : State :=
  let e := ((tyOf (BitVec.ofNat 7 x.d1.typ)).map Ty.width).getD 8
  let w := recWho s core x
  let rows := (List.range 64).mapM fun r => (tileRead s w core x.d1.tile (512 * r + x.d1.off) (8 * e)).map leNat
  match rows with
  | .error c => plainStop s core x (some { cause := c })
  | .ok l =>
    let s1 :=
      if lateBlock s x core then countLateN s (tagPart x.tag) 4096
      else (transposed e l).zipIdx.foldl (fun s v =>
        tileWrite s w core x.d0.tile (512 * v.2 + x.d0.off) (leBytes (8 * e) v.1)) s
    mapRec s1 core x.id fun r => { r with upc := 1 }

end Sys2Proof.Machine
end

