-- ==== Sys2Proof/Machine/Zstd.lean ====
section
/-! DEFINITION. Zstandard frames (RFC 8878) as `cpdz` expands them (03 R34, R35; 12 R253): headers, Huffman and FSE
tables, literals and sequences of one block, and the content checksum. `none` means a malformed frame. -/

namespace Sys2Proof.Machine

open Sys2Proof

/-! ## Bytes and bits -/

/-- Little-endian number of bytes. -/
def zNum (l : List Byte) : Nat := l.foldr (fun b n => b.toNat + 256 * n) 0

/-- The first `n` bytes and the rest. -/
def zTake (n : Nat) (l : List Byte) : Option (List Byte × List Byte) :=
  if l.length < n then none else some (l.take n, l.drop n)

/-- A bitstream read from its end: its number and the bits left below the end mark. -/
structure ZBits where
  v : Nat
  pos : Nat
deriving DecidableEq, Repr

/-- The stream of some bytes: the highest 1 bit of the last byte is the end mark. -/
def zBack (l : List Byte) : Option ZBits :=
  match l.getLast? with
  | none => none
  | some b => if b = 0 then none else
    let v := zNum l
    some { v, pos := Nat.log2 v }

/-- `n` bits from the end. -/
def ZBits.read (b : ZBits) (n : Nat) : Option (Nat × ZBits) :=
  if b.pos < n then none else some (b.v / 2 ^ (b.pos - n) % 2 ^ n, { b with pos := b.pos - n })

/-! ## FSE tables -/

/-- The normalised counts of a table from the bit `pos` of a number; `left` is what remains of 2^log. -/
def fseCounts (v : Nat) : Nat → Nat → Nat → List Int → Option (List Int × Nat)
  | 0, _, _, _ => none
  | f + 1, pos, left, acc =>
    if left = 0 then some (acc, pos)
    else if 256 ≤ acc.length then none
    else
      let bits := Nat.log2 (left + 1) + 1
      let x := v / 2 ^ pos % 2 ^ bits
      let low := x % 2 ^ (bits - 1)
      let thr := 2 ^ bits - 1 - (left + 1)
      let short := decide (low < thr)
      let val := if short then low else if 2 ^ (bits - 1) ≤ x then x - thr else x
      let pos1 := pos + (if short then bits - 1 else bits)
      let p : Int := (val : Int) - 1
      if left < p.natAbs then none
      else if val = 1 then
        -- a zero count is followed by two-bit repeat flags
        let z := (List.range f).takeWhile fun i => v / 2 ^ (pos1 + 2 * i) % 4 == 3
        let k := z.length
        let last := v / 2 ^ (pos1 + 2 * k) % 4
        fseCounts v f (pos1 + 2 * (k + 1)) left (acc ++ List.replicate (1 + 3 * k + last) 0)
      else fseCounts v f pos1 (left - p.natAbs) (acc ++ [p])

/-- An FSE table description: the table, and the bytes after it. -/
def fseRead (maxLog maxSym : Nat) (l : List Byte) : Option (FseTable × List Byte) :=
  match l with
  | [] => none
  | b :: _ =>
    let log := b.toNat % 16 + 5
    if maxLog < log then none
    else
      match fseCounts (zNum (l.take 512)) 512 4 (2 ^ log) [] with
      | none => none
      | some (c, pos) =>
        let n := (pos + 7) / 8
        if maxSym + 1 < c.length ∨ l.length < n then none else some ({ log, counts := c }, l.drop n)

/-- A cell of a decoding table: symbol, bits to read, base of the next state. -/
structure FseCell where
  sym : Nat
  bits : Nat
  base : Nat
deriving DecidableEq, Repr

/-- The next free position of the spread. -/
def fseNext (size high step : Nat) : Nat → Nat → Nat
  | 0, p => p
  | f + 1, p =>
    let q := (p + step) % size
    if high ≤ q then fseNext size high step f q else q

/-- Spread `n` cells of a symbol from a position. -/
def fseSpread (size high step sym : Nat) : Nat → List Nat × Nat → List Nat × Nat
  | 0, x => x
  | n + 1, (t, p) => fseSpread size high step sym n (t.set p sym, fseNext size high step size p)

/-- The cells of a table in order, counting the states of each symbol. -/
def fseCells (log : Nat) : List Nat → List Nat → List FseCell
  | [], _ => []
  | s :: t, next =>
    let x := next.getD s 1
    let b := log - Nat.log2 x
    { sym := s, bits := b, base := x * 2 ^ b - 2 ^ log } :: fseCells log t (next.set s (x + 1))

/-- The decoding table of normalised counts. -/
def fseBuild (t : FseTable) : List FseCell :=
  let size := 2 ^ t.log
  let ones := ((t.counts.zipIdx.filter fun c => c.1 == -1).map (·.2))
  let high := size - ones.length
  let blank := List.replicate high 0 ++ ones.reverse
  let step := size / 2 + size / 8 + 3
  let r := t.counts.zipIdx.foldl (fun x c => if 0 < c.1 then fseSpread size high step c.2 c.1.toNat x else x) (blank, 0)
  fseCells t.log r.1 (t.counts.map fun c => if c = -1 then 1 else c.toNat)

/-! ## Huffman tables -/

/-- Weights decoded by two alternating states until the stream ends. -/
def huffWeights (t : List FseCell) : Nat → FseCell → FseCell → ZBits → List Nat → Option (List Nat)
  | 0, _, _, _, _ => none
  | f + 1, a, b, z, acc =>
    match z.read a.bits with
    | none => some (acc ++ [a.sym, b.sym])
    | some (x, z1) => huffWeights t f b (t.getD (a.base + x) { sym := 0, bits := 0, base := 0 }) z1 (acc ++ [a.sym])

/-- All weights with the implied last one: the sum of 2^(w − 1) completes to a power of two (RFC 8878 4.2.1). -/
def huffComplete (w : List Nat) : Option (List Nat) :=
  let sum := w.foldl (fun n x => if x = 0 then n else n + 2 ^ (x - 1)) 0
  if sum = 0 ∨ w.any (fun x => decide (11 < x)) ∨ 255 < w.length then none
  else
    let bits := Nat.log2 sum + 1
    let left := 2 ^ bits - sum
    if 11 < bits ∨ 2 ^ Nat.log2 left ≠ left then none else some (w ++ [Nat.log2 left + 1])

/-- A Huffman tree description: the weights, and the bytes after it. -/
def huffRead (l : List Byte) : Option (List Nat × List Byte) :=
  match l with
  | [] => none
  | b :: r =>
    if 128 ≤ b.toNat then
      let n := b.toNat - 127
      match zTake ((n + 1) / 2) r with
      | none => none
      | some (ws, rest) =>
        (huffComplete (((ws.flatMap fun x => [x.toNat / 16, x.toNat % 16])).take n)).map (·, rest)
    else
      match zTake b.toNat r with
      | none => none
      | some (d, rest) =>
        match fseRead 6 255 d with
        | none => none
        | some (t, bits) =>
          match zBack bits with
          | none => none
          | some z =>
            let cells := fseBuild t
            let cell := fun i => cells.getD i { sym := 0, bits := 0, base := 0 }
            match z.read t.log with
            | none => none
            | some (a, z1) =>
              match z1.read t.log with
              | none => none
              | some (b', z2) =>
                match huffWeights cells 256 (cell a) (cell b') z2 [] with
                | none => none
                | some w => (huffComplete w).map (·, rest)

/-- Number of bits of the longest code. -/
def huffBits (w : List Nat) : Nat := Nat.log2 (w.foldl (fun n x => if x = 0 then n else n + 2 ^ (x - 1)) 0)

/-- The decoding table: for each code prefix, the symbol and its length. -/
def huffTable (w : List Nat) : List (Nat × Nat) :=
  let m := huffBits w
  ((List.range m).map (· + 1)).flatMap fun k =>
    (w.zipIdx.filter fun x => x.1 == k).flatMap fun x => List.replicate (2 ^ (k - 1)) (x.2, m + 1 - k)

/-- `n` symbols of a stream, which must end exactly. -/
def huffStream (t : Array (Nat × Nat)) (m : Nat) : Nat → ZBits → List Byte → Option (List Byte)
  | 0, z, acc => if z.pos = 0 then some acc.reverse else none
  | n + 1, z, acc =>
    let i := if m ≤ z.pos then z.v / 2 ^ (z.pos - m) % 2 ^ m else z.v % 2 ^ z.pos * 2 ^ (m - z.pos)
    let c := t.getD i (0, 0)
    if c.2 = 0 ∨ z.pos < c.2 then none
    else huffStream t m n { z with pos := z.pos - c.2 } (BitVec.ofNat 8 c.1 :: acc)

/-- One stream of literals. -/
def huffDecode (w : List Nat) (n : Nat) (l : List Byte) : Option (List Byte) :=
  match zBack l with
  | none => none
  | some z => huffStream (huffTable w).toArray (huffBits w) n z []

/-- Four streams behind their jump table. -/
def huffFour (w : List Nat) (n : Nat) (l : List Byte) : Option (List Byte) :=
  match zTake 6 l with
  | none => none
  | some (j, r) =>
    let s := fun i => zNum ((j.drop (2 * i)).take 2)
    let q := (n + 3) / 4
    if r.length < s 0 + s 1 + s 2 ∨ n < 3 * q then none
    else
      let r1 := r.drop (s 0)
      let r2 := r1.drop (s 1)
      match huffDecode w q (r.take (s 0)), huffDecode w q (r1.take (s 1)), huffDecode w q (r2.take (s 2)),
        huffDecode w (n - 3 * q) (r2.drop (s 2)) with
      | some a, some b, some c, some d => some (a ++ b ++ c ++ d)
      | _, _, _, _ => none

/-! ## Literals -/

/-- The literals section of a block: the literals, the weights in force, and the bytes after it. -/
def zLiterals (z : ZState) (l : List Byte) : Option (List Byte × List Nat × List Byte) :=
  match l with
  | [] => none
  | b :: _ =>
    let ty := b.toNat % 4
    let sf := b.toNat / 4 % 4
    if ty < 2 then
      let hs := if sf % 2 = 0 then 1 else if sf = 1 then 2 else 3
      let n := if sf % 2 = 0 then b.toNat / 8 else zNum (l.take hs) / 16
      if l.length < hs then none
      else
        match zTake (if ty = 0 then n else 1) (l.drop hs) with
        | none => none
        | some (d, r) => some (if ty = 0 then d else List.replicate n (d.headD 0), z.huff, r)
    else
      let hs := if sf < 2 then 3 else if sf = 2 then 4 else 5
      let k := if sf < 2 then 10 else if sf = 2 then 14 else 18
      let v := zNum (l.take hs)
      let n := v / 16 % 2 ^ k
      let c := v / 2 ^ (4 + k) % 2 ^ k
      if l.length < hs then none
      else
        match zTake c (l.drop hs) with
        | none => none
        | some (d, r) =>
          let tree := if ty = 2 then huffRead d else if z.huff.isEmpty then none else some (z.huff, d)
          match tree with
          | none => none
          | some (w, s) =>
            let out := if sf = 0 then huffDecode w n s else huffFour w n s
            out.map (·, w, r)

/-! ## Sequences -/

/-- Baseline and extra bits of a literals-length code. -/
def llCode (c : Nat) : Nat × Nat :=
  if c < 16 then (c, 0)
  else [(16, 1), (18, 1), (20, 1), (22, 1), (24, 2), (28, 2), (32, 3), (40, 3), (48, 4), (64, 6), (128, 7), (256, 8),
    (512, 9), (1024, 10), (2048, 11), (4096, 12), (8192, 13), (16384, 14), (32768, 15), (65536, 16)].getD (c - 16) (0, 0)

/-- Baseline and extra bits of a match-length code. -/
def mlCode (c : Nat) : Nat × Nat :=
  if c < 32 then (c + 3, 0)
  else [(35, 1), (37, 1), (39, 1), (41, 1), (43, 2), (47, 2), (51, 3), (59, 3), (67, 4), (83, 4), (99, 5), (131, 7),
    (259, 8), (515, 9), (1027, 10), (2051, 11), (4099, 12), (8195, 13), (16387, 14), (32771, 15), (65539, 16)].getD
    (c - 32) (0, 0)

/-- The predefined distributions. -/
def llDefault : FseTable :=
  { log := 6, counts := [4, 3, 2, 2, 2, 2, 2, 2, 2, 2, 2, 2, 2, 1, 1, 1, 2, 2, 2, 2, 2, 2, 2, 2, 2, 3, 2, 1, 1, 1, 1, 1,
      -1, -1, -1, -1] }
def mlDefault : FseTable :=
  { log := 6, counts := [1, 4, 3, 2, 2, 2, 2, 2, 2] ++ List.replicate 37 1 ++ List.replicate 7 (-1) }
def ofDefault : FseTable :=
  { log := 5, counts := [1, 1, 1, 1, 1, 1, 2, 2, 2] ++ List.replicate 15 1 ++ List.replicate 5 (-1) }

/-- One table of the sequences section under its mode. -/
def seqTable (mode maxLog maxSym : Nat) (dflt : FseTable) (prev : Option FseTable) (l : List Byte) :
    Option (FseTable × List Byte) :=
  match mode with
  | 0 => some (dflt, l)
  | 1 =>
    (match l with
     | [] => none
     | b :: r => if maxSym < b.toNat then none else some ({ log := 0, counts := List.replicate b.toNat 0 ++ [1] }, r))
  | 2 => fseRead maxLog maxSym l
  | _ => prev.map (·, l)

/-- One sequence. -/
structure ZSeq where
  ll : Nat
  ml : Nat
  off : Nat
deriving DecidableEq, Repr

/-- The offset of a sequence and the repeat offsets after it (RFC 8878 3.1.2.5); `none` for an offset of 0. -/
def zOffset (reps : List Nat) (ov ll : Nat) : Option (Nat × List Nat) :=
  let r := fun i => reps.getD i 1
  if 3 < ov then some (ov - 3, [ov - 3, r 0, r 1])
  else
    let i := if ll = 0 then ov else ov - 1
    let o := if i = 3 then r 0 - 1 else r i
    if o = 0 then none
    else some (o, if i = 0 then reps else if i = 1 then [o, r 0, r 2] else [o, r 0, r 1])

/-- `n` sequences of a bitstream, which must end exactly. -/
def zSeqs (tl tof tm : List FseCell) : Nat → FseCell → FseCell → FseCell → ZBits → List Nat → List ZSeq →
    Option (List ZSeq × List Nat)
  | 0, _, _, _, z, reps, acc => if z.pos = 0 then some (acc.reverse, reps) else none
  | n + 1, cl, co, cm, z, reps, acc =>
    let cell := fun (t : List FseCell) i => t.getD i { sym := 0, bits := 0, base := 0 }
    let m := mlCode cm.sym
    let lcode := llCode cl.sym
    match z.read co.sym with
    | none => none
    | some (xo, z1) =>
      match z1.read m.2 with
      | none => none
      | some (xm, z2) =>
        match z2.read lcode.2 with
        | none => none
        | some (xl, z3) =>
          let ll := lcode.1 + xl
          match zOffset reps (2 ^ co.sym + xo) ll with
          | none => none
          | some (off, reps1) =>
            let sq : ZSeq := { ll, ml := m.1 + xm, off }
            if n = 0 then zSeqs tl tof tm 0 cl co cm z3 reps1 (sq :: acc)
            else
              match z3.read cl.bits with
              | none => none
              | some (a, z4) =>
                match z4.read cm.bits with
                | none => none
                | some (b, z5) =>
                  match z5.read co.bits with
                  | none => none
                  | some (c, z6) =>
                    zSeqs tl tof tm n (cell tl (cl.base + a)) (cell tof (co.base + c)) (cell tm (cm.base + b)) z6 reps1 (sq :: acc)

/-- What a block does to the output: its literals and sequences, and the decoder after it. -/
structure ZBlock where
  lits : List Byte
  seqs : List ZSeq
  z : ZState
deriving DecidableEq, Repr

/-- The sequences section of a block. -/
def zSequences (z : ZState) (lits : List Byte) (l : List Byte) : Option ZBlock :=
  let hdr : Option (Nat × List Byte) := match l with
    | [] => none
    | b :: r =>
      if b.toNat < 128 then some (b.toNat, r)
      else if b.toNat < 255 then (zTake 1 r).map fun x => ((b.toNat - 128) * 256 + zNum x.1, x.2)
      else (zTake 2 r).map fun x => (zNum x.1 + 0x7F00, x.2)
  match hdr with
  | none => none
  | some (0, r) => if r.isEmpty then some { lits, seqs := [], z } else none
  | some (_, []) => none
  | some (n, m :: r) =>
    if m.toNat % 4 ≠ 0 then none
    else
      match seqTable (m.toNat / 64) 9 35 llDefault z.ll r with
      | none => none
      | some (tl, r1) =>
        match seqTable (m.toNat / 16 % 4) 8 31 ofDefault z.off r1 with
        | none => none
        | some (tof, r2) =>
          match seqTable (m.toNat / 4 % 4) 9 52 mlDefault z.ml r2 with
          | none => none
          | some (tm, r3) =>
            match zBack r3 with
            | none => none
            | some b0 =>
              match b0.read tl.log with
              | none => none
              | some (a, b1) =>
                match b1.read tof.log with
                | none => none
                | some (c, b2) =>
                  match b2.read tm.log with
                  | none => none
                  | some (d, b3) =>
                    let cell := fun (t : List FseCell) i => t.getD i { sym := 0, bits := 0, base := 0 }
                    let cl := fseBuild tl
                    let co := fseBuild tof
                    let cm := fseBuild tm
                    match zSeqs cl co cm n (cell cl a) (cell co c) (cell cm d) b3 z.reps [] with
                    | none => none
                    | some (sq, reps) =>
                      some { lits, seqs := sq, z := { z with reps, ll := some tl, off := some tof, ml := some tm } }

/-- The content of a compressed block. -/
def zCompressed (z : ZState) (l : List Byte) : Option ZBlock :=
  match zLiterals z l with
  | none => none
  | some (lits, w, r) => zSequences { z with huff := w } lits r

/-- Bytes a block regenerates. -/
def ZBlock.size (b : ZBlock) : Nat := b.lits.length + (b.seqs.foldl (fun n q => n + q.ml) 0)

/-- The sequences take no more literals than there are. -/
def ZBlock.litsOk (b : ZBlock) : Bool := decide (b.seqs.foldl (fun n q => n + q.ll) 0 ≤ b.lits.length)

/-! ## Headers -/

/-- The most a header takes. -/
abbrev zHeaderMax : Nat := 18

/-- The frame header from the first bytes of a frame of `stored` bytes: the decoder and its Dictionary_ID; a frame
without a content size is refused (R34). -/
def zHeader (l : List Byte) (stored : Nat) : Option (ZState × Nat) :=
  if l.length < 5 ∨ zNum (l.take 4) ≠ 0xFD2FB528 then none
  else
    let d := (l.getD 4 0).toNat
    let single := d / 32 % 2 == 1
    let fcs := if d / 64 = 0 then (if single then 1 else 0) else 2 ^ (d / 64)
    let dn := if d % 4 = 3 then 4 else d % 4
    let p0 := if single then 5 else 6
    let n := p0 + dn + fcs
    if d / 8 % 2 = 1 ∨ fcs = 0 ∨ stored < n ∨ l.length < n then none
    else
      let id := zNum ((l.drop p0).take dn)
      let size := zNum ((l.drop (p0 + dn)).take fcs) + (if fcs = 2 then 256 else 0)
      let wd := (l.getD 5 0).toNat
      let base := 2 ^ (10 + wd / 8)
      let window := if single then size else base + base / 8 * (wd % 8)
      some ({ inPos := n, size, window, checksum := d / 4 % 2 == 1 }, id)

/-- A dictionary: the decoder with its tables and content, and its id (RFC 8878 5) (DESIGN CHOICE, log 33). -/
def zDict (z : ZState) (l : List Byte) : Option (ZState × Nat) :=
  if l.length < 8 ∨ zNum (l.take 4) ≠ 0xEC30A437 then none
  else
    match huffRead (l.drop 8) with
    | none => none
    | some (w, r) =>
      match fseRead 8 31 r with
      | none => none
      | some (tof, r1) =>
        match fseRead 9 52 r1 with
        | none => none
        | some (tm, r2) =>
          match fseRead 9 35 r2 with
          | none => none
          | some (tl, r3) =>
            match zTake 12 r3 with
            | none => none
            | some (k, c) =>
              let reps := (List.range 3).map fun i => zNum ((k.drop (4 * i)).take 4)
              if reps.any fun x => x == 0 || decide (c.length < x) then none
              else some ({ z with huff := w, ll := some tl, off := some tof, ml := some tm, reps, dict := c },
                zNum ((l.drop 4).take 4))

/-- The most bytes a block holds or regenerates. -/
def ZState.blockMax (z : ZState) : Nat := min z.window 0x20000

/-- An offset reaches data that the window still holds, or the dictionary (RFC 8878 5). -/
def ZState.reaches (z : ZState) (out off : Nat) : Bool :=
  decide (off ≤ out ∧ off ≤ z.window) || decide (out ≤ z.window ∧ off ≤ out + z.dict.length)

/-! ## The content checksum: the low 32 bits of XXH64 with seed 0 -/

def xxP1 : BitVec 64 := 0x9E3779B185EBCA87#64
def xxP2 : BitVec 64 := 0xC2B2AE3D27D4EB4F#64
def xxP3 : BitVec 64 := 0x165667B19E3779F9#64
def xxP4 : BitVec 64 := 0x85EBCA77C2B2AE63#64
def xxP5 : BitVec 64 := 0x27D4EB2F165667C5#64

/-- One round of an accumulator. -/
def xxRound (a x : BitVec 64) : BitVec 64 := (a + x * xxP2).rotateLeft 31 * xxP1

/-- The little-endian word of bytes. -/
def xxWord (l : List Byte) : BitVec 64 := BitVec.ofNat 64 (zNum l)

/-- Whole stripes of 32 bytes. -/
def xxStripes : Nat → List Byte → List (BitVec 64) → List (BitVec 64) × List Byte
  | 0, l, a => (a, l)
  | f + 1, l, a =>
    if l.length < 32 then (a, l)
    else xxStripes f (l.drop 32) (a.zipIdx.map fun x => xxRound x.1 (xxWord ((l.drop (8 * x.2)).take 8)))

/-- The bytes after the stripes. -/
def xxTail : Nat → List Byte → BitVec 64 → BitVec 64
  | 0, _, h => h
  | f + 1, l, h =>
    if 8 ≤ l.length then xxTail f (l.drop 8) ((h ^^^ xxRound 0 (xxWord (l.take 8))).rotateLeft 27 * xxP1 + xxP4)
    else if 4 ≤ l.length then xxTail f (l.drop 4) ((h ^^^ (xxWord (l.take 4) * xxP1)).rotateLeft 23 * xxP2 + xxP3)
    else
      match l with
      | [] => h
      | b :: r => xxTail f r ((h ^^^ (b.zeroExtend 64 * xxP5)).rotateLeft 11 * xxP1)

/-- XXH64 with seed 0. -/
def xxh64 (l : List Byte) : BitVec 64 :=
  let n := l.length
  let r := xxStripes (n / 32) l [xxP1 + xxP2, xxP2, 0, 0 - xxP1]
  let g := fun i => r.1.getD i 0
  let h0 := if n < 32 then xxP5 else
    r.1.foldl (fun h a => (h ^^^ xxRound 0 a) * xxP1 + xxP4)
      ((g 0).rotateLeft 1 + (g 1).rotateLeft 7 + (g 2).rotateLeft 12 + (g 3).rotateLeft 18)
  let h1 := xxTail n r.2 (h0 + BitVec.ofNat 64 n)
  let h2 := (h1 ^^^ (h1 >>> 33)) * xxP2
  let h3 := (h2 ^^^ (h2 >>> 29)) * xxP3
  h3 ^^^ (h3 >>> 32)

end Sys2Proof.Machine
end

