-- ==== Sys2Proof/Machine/RecordRun.lean ====
section
/-! DEFINITION. Records in progress: start, elements, completion and markers (11 R219-R222; 12 R243-R259; 08 R164). -/

namespace Sys2Proof.Machine

open Sys2Proof

/-! ## Checks at start (R246) -/

/-- The descriptor is all zero. -/
def RDesc.isNull (d : RDesc) : Bool := d.first == 0 && d.second == 0
/-- The code is untyped, or a type whose container is whole bytes (R244). -/
def codeOk (c : Nat) : Bool := c == 0x7F || (codeBytes c).isSome

/-- The type of a descriptor: that of AUX11, or a tensor's own (R244). -/
def descTy (s : State) (core : Nat) (d : RDesc) : Option Ty :=
  if d.space = 7 ∧ d.typ = 0x7F then
    (if d.handle = 0 then some .n8 else if (d.tensor s core).rank = 0 then none else some (d.tensor s core).ty)
  else tyOf (BitVec.ofNat 7 d.typ)

/-- The walk of a short copy: unit byte, and stride 1 of dimension 0 alone (R248). -/
def byteWalk (d : RDesc) : Bool := d.unit == 1 && d.stride 0 == 1 && (List.range 3).all fun k => d.stride (k + 1) == 0

/-- What every record of a nest checks of a descriptor it uses. A queue end walks no nest (R244): any stride or unit of it but those
that the short copy of R248 writes are unused and nonzero (R246) (DEDUCED, log 31). -/
def nestReasons (s : State) (core : Nat) (d : RDesc) : List Nat :=
  if d.space = 0 then (if d.isNull then [] else [5])
  else
    let t := d.tensor s core
    (if d.resv || d.unit == 3 then [5] else []) ++ (if codeOk d.typ then [] else [3])
      ++ (if d.space = 7 then
            (if d.unit != 0 then [5] else [])
              ++ (if d.handle = 0 then (if d.typ = 0x7F ∨ d.typ = tyCode .n8 then [] else [3])
                  else if d.pairs s core then
                    (if d.typ != 0x7F || d.coords.getD 0 0 % 2 != 0 || d.stride 0 % 2 != 0 then [3] else [])
                  else if t.rank != 0 && d.typ != 0x7F && d.typ != tyCode t.ty then [3] else [])
          else [])
      ++ (if d.space = 9 && (d.unit != 0 || (List.range 4).any fun k => d.stride k != 0) && !byteWalk d then [5] else [])

/-- A tile offset, or the range of a tile descriptor, passes 0x887F. -/
def tileReasons (d : RDesc) (trips : List Nat) (e : Nat) : List Nat :=
  if d.space = 6 ∧ ((spanOf d trips e).1 < 0 ∨ (Config.tileBytes : Int) < (spanOf d trips e).2) then [9] else []

/-- A SPACE among those a record accepts, or reason 0x01. -/
def spaceReasons (d : RDesc) (l : List Nat) : List Nat := if l.contains d.space then [] else [1]

/-- Types of `cpcv` and `coll`. -/
def tyWide (t : Ty) : Bool :=
  match t with
  | .i8 | .n8 | .i16 | .n16 | .i32 | .n32 | .i64 | .n64 | .f16 | .bf16 | .f32 => true
  | _ => false
def tyInt (t : Ty) : Bool :=
  match t with
  | .i32 | .n32 | .i64 | .n64 => true
  | _ => false
/-- The types of an operation of `cpbk` (R254). -/
def bkTy (op : Nat) (t : Ty) : Bool :=
  if op = 6 then t.isFloat else if op = 1 ∨ op = 2 then tyInt t || t.isFloat else tyInt t
/-- The types of a kind and an operation of `coll`: kinds 2 and 3 only move elements (R255), which allows float types and names no
operation of theirs but fsum: add, and, or and xor of them are reason 0x03 (DESIGN CHOICE, log 102). -/
def collTy (kind op : Nat) (t : Ty) : Bool :=
  tyWide t && (if 2 ≤ kind then true else if op = 6 then t.isFloat else if op = 1 ∨ op = 2 then true else !t.isFloat)

/-- Kind and operation of a collective. -/
def collKind (x : Rec) : Nat := x.r.aux.toNat % 4
def collOp (x : Rec) : Nat := x.r.aux.toNat / 4 % 8

/-- Matched records agree. -/
def collAgrees (a b : Rec) : Bool :=
  a.r.aux == b.r.aux && a.r.scp == b.r.scp && a.r.w1 == b.r.w1 && a.d0.typ == b.d0.typ && a.d1.typ == b.d1.typ

/-- Elements a member of a collective walks. -/
def collSteps (x : Rec) (members : Nat) : Nat :=
  if collKind x = 1 ∨ collKind x = 2 then nestSize x.r / members else nestSize x.r

/-- A tensor descriptor that a record uses has lost its data: the cause 0x19 that reports it (14 R292). -/
def lostDesc (s : State) (core : Nat) (x : Rec) (d : RDesc) : Option Trap :=
  if d.space = 7 then
    (descPoison s (s.core core).view (tagPart x.tag) d.handle).map fun l =>
      { (if d.handle = 0 then flatTrap 0x19 (d.coords.getD 0 0) else tensorTrap 0x19 d.handle d.coords) with errAt := some l }
  else none

/-- The reasons of a record at start (DEDUCED, log 29). -/
def startReasons (s : State) (core : Nat) (x : Rec) : List Nat :=
  let d0 := x.d0
  let d1 := x.d1
  let d2 := x.d2
  let t := tripsOf x.r
  let e := x.sizes s core
  let nests := nestReasons s core d0 ++ nestReasons s core d1 ++ nestReasons s core d2
  let tiles := tileReasons d0 t e.1 ++ tileReasons d1 t e.2
  let sizes := match sideBytes s core d0, sideBytes s core d1 with
    | some a, some b => if a != b then [0xA] else []
    | _, _ => []
  let ty0 := descTy s core d0
  let ty1 := descTy s core d1
  match x.op with
  | .cp => spaceReasons d0 [1, 2, 3, 4, 5, 6, 7, 8, 9, 10] ++ spaceReasons d1 [0, 1, 2, 3, 4, 5, 6, 7, 8, 9, 10]
      ++ spaceReasons d2 [0] ++ nests ++ tiles ++ sizes
  | .cpcv => spaceReasons d0 [1, 2, 3, 4, 5, 6, 7, 8, 10] ++ spaceReasons d1 [1, 2, 3, 4, 5, 6, 7, 8, 10]
      ++ spaceReasons d2 [0] ++ nests ++ tiles
      ++ (if (ty0.any tyWide) && (ty1.any tyWide) then [] else [3])
  | .cpbk => spaceReasons d0 [4, 5] ++ spaceReasons d1 [1, 2, 3, 4, 5, 6, 7, 8, 10] ++ spaceReasons d2 [0] ++ nests ++ tiles ++ sizes
      ++ (if ty0 == ty1 && ty0.any (bkTy (x.r.aux.toNat % 8)) then [] else [3])
  | .mig => spaceReasons d0 [7, 8, 10] ++ spaceReasons d1 [7, 8, 10] ++ spaceReasons d2 [0] ++ nests ++ sizes
  | .migrep => spaceReasons d0 [0] ++ spaceReasons d1 [7] ++ spaceReasons d2 [0] ++ nests
      ++ (if d1.space = 7 ∧ (d1.tensor s core).sealed_ = false then [0xC] else [])
  | .coll =>
    let ms := collMembers s core x
    let p := ms.length
    spaceReasons d0 [1, 4, 7, 8] ++ spaceReasons d1 [1, 4, 7, 8] ++ spaceReasons d2 [0] ++ nests
      ++ (if ty0 == ty1 && ty0.any (collTy (collKind x) (collOp x)) then [] else [3])
      ++ (if x.r.scp.toNat < 2 ∨ ((collKind x = 1 ∨ collKind x = 2) ∧ nestSize x.r % p ≠ 0) then [5] else [])
      ++ (if ms.any fun m => m.2.any fun r => !collAgrees x r then [0xB] else [])
  | .cpdz =>
    let one := fun (d : RDesc) =>
      if d.space = 0 then (if d.isNull then [] else [5])
      else (if d.resv || d.unit != 0 then [5] else []) ++ (if d.typ != 0x7F then [3] else [])
        ++ (if d.space = 7 ∧ d.handle ≠ 0 then [1] else [])
    spaceReasons d0 [1, 4, 8] ++ spaceReasons d1 [1, 4, 7, 8, 10] ++ spaceReasons d2 [0, 1, 4, 7, 8, 10]
      ++ one d0 ++ one d1 ++ one d2 ++ (if x.r.w1 != 0 then [5] else [])
  | _ => []

/-- First and last offset of the first `m` elements of a nest, from its slowest dimension on: trips and steps. -/
def prefixSpan : List (Nat × Int) → Nat → Int × Int
  | [], _ => (0, 0)
  | (_, st) :: l, m =>
    let inner := l.foldl (fun n x => n * x.1) 1
    let q := m / inner
    let side := fun (f : Int → Int → Int) => (l.map fun x => f 0 (((x.1 : Int) - 1) * x.2)).foldl (· + ·) (f 0 (((q : Int) - 1) * st))
    let rest := prefixSpan l (m % inner)
    let lo := (q : Int) * st + rest.1
    let hi := (q : Int) * st + rest.2
    if q = 0 then rest else if m % inner = 0 then (side min, side max) else (min (side min) lo, max (side max) hi)

/-- Elements of a descriptor that a record walks: `part` of a collective's members hold a part of the nest in D0 of a
reduce-scatter and in D1 of an all-gather (R255). -/
def walked (s : State) (core : Nat) (x : Rec) (dst : Bool) : Nat :=
  if x.op = .coll ∧ ((collKind x = 1 ∧ dst) ∨ (collKind x = 2 ∧ !dst)) then
    nestSize x.r / max 1 (collMembers s core x).length
  else nestSize x.r

/-- First byte, and last plus one, of what a record touches through a descriptor. -/
def walkSpan (s : State) (core : Nat) (x : Rec) (d : RDesc) (e : Nat) (dst : Bool) : Int × Int :=
  if x.op = .cpdz then ((d.off : Int), (d.off : Int) + d.second.toNat)
  else
    let dims := ([3, 2, 1, 0].map fun k => (trip x.r k, d.stride k * (unitBytes d e : Int)))
    let r := prefixSpan dims (walked s core x dst)
    ((d.off : Int) + r.1, (d.off : Int) + r.2 + e)

/-- The local windows of a nest, or of a frame, lie within their limits (02 R17): the source is looked at first (DEDUCED, log 29). -/
def windowCheck (s : State) (core : Nat) (x : Rec) (d : RDesc) (e : Nat) (dst : Bool) : Option Trap :=
  if d.space = 0 ∨ 5 < d.space ∨ (x.op = .cpdz ∧ d.second = 0) then none
  else
    let p := tagPart x.tag
    let span := walkSpan s core x d e dst
    match windowPlace s core p d span.1 e, windowPlace s core p d (span.2 - e) e with
    | .error t, _ => some t
    | _, .error t => some t
    | _, _ => none

/-- The checks of words 1 to 7 at start (R243) (DEDUCED, log 29). -/
def startCheck (s : State) (core : Nat) (x : Rec) : Option StartStop :=
  if x.op.isMatrix then matrixCheck s core x
  else
    match ovCheck x with
    | some t => some (.cause t)
    | none =>
      match [x.d1, x.d2, x.d0].findSome? (lostDesc s core x) with
      | some t => some (.cause t)
      | none =>
      let l := startReasons s core x
      if !l.isEmpty then some (.cause (reasonTrap x (leastReason l)))
      else
        let e := x.sizes s core
        let e := if x.op = .cpdz then (1, 1) else e
        (windowCheck s core x x.d1 e.2 false <|> windowCheck s core x x.d2 e.2 false <|> windowCheck s core x x.d0 e.1 true).map .cause

/-! ## Start (R219-R222, R243) -/

/-- The records of a core have their partition's engines: its firmware runs, or its partition is live on all its groups, with nothing
still to resume (11 R228). -/
def recUp (s : State) (core : Nat) : Bool :=
  let p := s.part (partOf s core)
  if isSvc core then s.firmware == .running
  else (s.group (groupOf core)).live.isSome && liveAll s (partOf s core) && !p.resume && !p.saved && p.removal.isNone

/-- They may act: nothing stops them. -/
def recMay (s : State) (core : Nat) : Bool := recUp s core && (isSvc core || !recStops s core)

/-- A block of a frame has been expanded and not all of it is written: it is in flight (12 R245). -/
def midBlock (x : Rec) : Bool := x.op == .cpdz && x.z.any fun z => !z.pend.isEmpty

/-- A running record may act: at a stop it completes what is in flight (R245). -/
def recGoes (s : State) (core : Nat) (x : Rec) : Bool := recUp s core && (isSvc core || midBlock x || !recStops s core)

/-- The record is at the head its engine may take, and no held record stands in its queue (R222, R247). -/
def headMay (q : List Rec) (x : Rec) : Bool :=
  let before := (q.takeWhile fun r => r.id != x.id).filter fun r => r.op != .note
  !(q.any fun r => r.status == .held) && (if x.op.isMatrix then before.isEmpty else before.all fun r => r.status == .running)

/-- The range checker and the tile reservations release the record (R220; 07 R146). -/
def rangesFree (s : State) (core : Nat) (x : Rec) : Bool :=
  let mine := rangesOf s core x
  let c := s.core core
  (c.records.all fun r => decide (x.id ≤ r.id) || r.op == .note || (rangesOf s core r).all fun a => mine.all fun b => !a.hits b)
    && (c.reservations.all fun r => mine.all fun g => !(g.sp == .tile r.tile && (g.write || r.write)))
    && !mine.any (tileWaits s core x.id)

/-- Contexts of a copy engine in use on a die: a record keeps its own from its start to its end, held by a fault or not (R222).
`all` also counts the records that wait for one after a switch. -/
def copyBusy (s : State) (all : Bool) (die e : Nat) : Nat :=
  ((s.cores.filter fun c => dieOf c.1 == die).map fun c =>
    (c.2.copyQ.filter fun r => r.started && r.op != .note && r.engine == e && (all || !r.parked)).length).foldl (· + ·) 0

/-- What tells a collective from another: its members, its level and its number there. -/
def collKey (s : State) (core : Nat) (x : Rec) : List Nat × Nat × Nat := (membersOf s core x.r.scp.toNat, x.r.scp.toNat, x.collNo)

/-- The collectives that a record of theirs has begun. One runs on a context of each die that has a member, which its members there
share: each with one of its own, more members than contexts would never all start, and R210 has them proceed (DESIGN CHOICE, log 35). -/
def collsBegun (s : State) (all : Bool) : List (List Nat × Nat × Nat) :=
  (s.cores.flatMap fun c => (c.2.collQ.filter fun r => r.started && r.op == .coll && (all || !r.parked)).map (collKey s c.1)).eraseDups
def collBegun (s : State) (all : Bool) (core : Nat) (x : Rec) : Bool := (collsBegun s all).contains (collKey s core x)

/-- Contexts of the collective engine in use on a die. -/
def collBusy (s : State) (all : Bool) (die : Nat) : Nat :=
  ((collsBegun s all).filter fun k => k.1.any fun c => dieOf c == die).length

/-- Every die with a member of a collective has a context for it. -/
def collRoom (s : State) (all : Bool) (core : Nat) (x : Rec) : Bool :=
  (membersOf s core x.r.scp.toNat).all fun c => decide (collBusy s all (dieOf c) < 8)

/-- The issuing thread's earlier writes are visible to its core (08 R164 item 1). -/
def issuerWritten (s : State) (core : Nat) (x : Rec) : Bool :=
  (unapplied s (dieOf core)).all fun w => w.tid != recTid core x || w.exposed

/-- The checker releases the record, wherever it stands in its queue. -/
def released (s : State) (core : Nat) (x : Rec) : Bool :=
  x.status == .queued && x.op != .note && recMay s core && rangesFree s core x && issuerWritten s core x && collMatched s core x

/-- Its turn has come too. -/
def headReady (s : State) (core : Nat) (x : Rec) : Bool := released s core x && headMay (queueOf (s.core core) x) x

/-- A collective begins when every member's record is ready, so that none of them keeps a context for one that cannot come (R210)
(DESIGN CHOICE, log 35). -/
def collHeads (s : State) (core : Nat) (x : Rec) : Bool :=
  x.op != .coll || decide (x.r.scp.toNat < 2) || collBegun s true core x ||
    (collMembers s core x).all fun m => m.2.any (headReady s m.1)

/-- The record may start. -/
def mayStart (s : State) (core : Nat) (x : Rec) : Bool := headReady s core x && collHeads s core x

/-! ### The choice of an engine (R222) -/

/-- The copy queue or the collective queue of a core. -/
def engineQueue (coll : Bool) (c : Core) : List Rec := if coll then c.collQ else c.copyQ

/-- The head of a core's queue, if it may start: core, record and place in the order of issue. -/
def startHead (s : State) (coll : Bool) (core : Nat) : Option (Nat × Rec) :=
  match (engineQueue coll (s.core core)).find? fun r => r.status == .queued && r.op != .note with
  | some x => if mayStart s core x then some (core, x) else none
  | none => none

/-- Startable records of a core's queue. -/
def startables (s : State) (coll : Bool) (core : Nat) : Nat := ((engineQueue coll (s.core core)).filter (released s core)).length

/-- Cores of a die with anything listed, its service core last. -/
def dieCores (s : State) (d : Nat) : List Nat := (s.cores.map (·.1)).filter fun c => dieOf c == d

/-- The startable head of the queue with the most startable records, ties to the lower core. -/
def mostStartable (s : State) (coll : Bool) (d : Nat) : Option (Nat × Rec) :=
  (((dieCores s d).filterMap (startHead s coll)).foldl (fun best h =>
    match best with
    | some b => if startables s coll b.1 < startables s coll h.1 then some h else some b
    | none => some h) none)

/-- The head of an engine's two home queues that it starts: the one issued earlier. -/
def homeChoice (s : State) (d e : Nat) : Option (Nat × Rec) :=
  match startHead s false (64 * d + 2 * e), startHead s false (64 * d + 2 * e + 1) with
  | some a, some b => if a.2.issued ≤ b.2.issued then some a else some b
  | a, b => a <|> b

/-- What a copy engine starts next. -/
def engineChoice (s : State) (d e : Nat) : Option (Nat × Rec) := homeChoice s d e <|> mostStartable s false d

/-- The idle copy engine that starts the record: its home engine before others, the lowest of those (DESIGN CHOICE, log 35). -/
def pickEngine (s : State) (core : Nat) (x : Rec) : Option Nat :=
  let d := dieOf core
  let takes := fun e => decide (copyBusy s true d e < 4) && ((engineChoice s d e).map fun h => (h.1, h.2.id)) == some (core, x.id)
  let home := core % 64 / 2
  if !isSvc core && takes home then some home else (List.range 32).find? takes

/-- A context is free for the record, with its engine; a plain matrix record needs its core's tenure (07 R136). The
collective engine has no home queues (DESIGN CHOICE, log 35); the members of a collective that has begun join it. -/
def contextFor (s : State) (core : Nat) (x : Rec) : Option Nat :=
  match x.op with
  | .mmul | .mmod | .mtr =>
    let l := (s.core core).lease
    if arrayServes s core && decide (l.recs < 16) then some 0 else none
  | .mmulc => some 0
  | .coll =>
    if collBegun s true core x then some 0
    else if collRoom s true core x && ((mostStartable s true (dieOf core)).map fun h => (h.1, h.2.id)) == some (core, x.id) then
      some 0
    else none
  | .note => none
  | _ => pickEngine s core x

/-- The live ticks of a deadline (R256). -/
def deadlineOf (x : Rec) : Option Nat := if x.op = .mig ∧ x.r.aux ≠ 0 then some (2 ^ x.r.aux.toNat) else none

/-- The record runs on its context; a plain matrix record counts in its tenure, a cooperative one reserves its tiles and
begins to wait for its arrays. -/
def startRec (s : State) (core : Nat) (x : Rec) (engine : Nat) : State :=
  let s1 := mapRec s core x.id fun r =>
    { r with status := .running, started := true, engine, deadline := deadlineOf x, waitFrom := s.cycle }
  if x.op.isPlain then
    let l := (s1.core core).lease
    setLease s1 core { l with recs := l.recs + 1 }
  else if x.op = .mmulc then waitNext (reserveTiles s1 core x) core x.id
  else s1

/-- `RECORD_START`. -/
def execRecordStart (core rid : Nat) (s : State) : Out :=
  .next (match findRec s core rid with
    | none => s
    | some x =>
      if !mayStart s core x then s
      else
        match contextFor s core x with
        | none => s
        | some e =>
          match startCheck s core x with
          | some .wait => s
          | some (.cause t) => recFault s core x t
          | none =>
            if x.op = .mmulc && (wantedTiles core x).any (wantBlocked s core x) then s else startRec s core x e)

/-! ## Copies (R249-R254, R256, R258) -/

/-- A conversion of an element (R252). -/
def cvElem (s : State) (core : Nat) (x : Rec) (v : Nat) : Nat × Flags :=
  let t := (descTy s core x.d0).getD .n8
  let f := (descTy s core x.d1).getD .n8
  convert t (x.r.aux.toNat % 4) (x.r.aux.extractLsb' 2 4).toInt (numOf f v)

/-- An operation of `cpbk` on an element (R254). -/
def bkNew (op : Nat) (ty : Ty) (sat : Bool) (old b : Nat) : Nat × Flags :=
  let fin := fun (r : Num × Flags) => let y := finish ty 0 0 r.1; (y.1, r.2 ||| y.2)
  let o := numOf ty old
  let x := numOf ty b
  match op with
  | 0 => (wrapBits ty.width (clampInt ty (if sat then 1 else 0) (o.sn + x.sn)), 0)
  | 1 => fin (Num.min o x)
  | 2 => fin (Num.max o x)
  | 3 => (old &&& b, 0)
  | 4 => (old ||| b, 0)
  | 5 => (old ^^^ b, 0)
  | _ => fin (Num.add o x)

/-- An element of a record is done. -/
def stepRec (s : State) (core : Nat) (x : Rec) (fl : Flags) : State :=
  mapRec s core x.id fun r => { r with upc := r.upc + 1, flags := r.flags ||| fl }

/-- An update in bank memory, indivisibly at its home, once the home may take it (R254; 08 R159); `none` until then. -/
def bkStep (s1 : State) (core : Nat) (x : Rec) (p : Place) (e v : Nat) (t : Trap) : Option State :=
  let src := dieOf core
  let home := homeOf s1 p.store p.addr
  let w := recWho s1 core x
  if !(unapplied s1 src).isEmpty || !clockMet s1 home src (nextSeq s1 src) (s1.die src).clock then none
  else
    match poisonIn s1 w p.store p.addr e with
    | some k => some (recFault s1 core x { t with cause := poisonCause k })
    | none =>
      let r := bkNew (x.r.aux.toNat % 8) ((descTy s1 core x.d0).getD .n32) (x.r.aux.getLsbD 3)
        (leNat (readBytes s1 w p.store p.addr e)) v
      let s2 := performOp (countIssue s1 src) w (.bytes p.store (cellsOf p.addr (leBytes e r.1)))
      some (stepRec (observe (noteApplied s2 src home) src home) core x r.2)

/-- Mark a line poisoned by source loss, under the record's tag (R256; 14 R291). -/
def loseLine (s : State) (x : Rec) (d u : Nat) : State :=
  let m := (s.die d).hbm
  let m1 := if m.tag u = x.tag then m else (m.zeroRange (64 * u) 64).setTag u x.tag
  setMem s (.hbm d) (m1.setPoison u (some .source))

/-- The lines, each with its die, that hold an element of D0 not yet written and that the record may mark. -/
def restLines (s : State) (core : Nat) (x : Rec) : List (Nat × Nat) :=
  (((List.range (nestSize x.r)).drop x.upc).flatMap fun n =>
    (match recPlace s core x x.d0 n (x.sizes s core).1 .store with
     | .ok (.loc p, _) => [p]
     | .ok (.pair lo hi, _) => lo.toList ++ hi.toList
     | .ok (.bytes l, _) => l
     | _ => []).filterMap fun (p : Place) =>
       match p.store with
       | .hbm d => if owns s (tagPart x.tag) (.hbm d) p.addr && passes s { tag := x.tag } p.store p.addr then some (d, p.addr / 64) else none
       | _ => none).eraseDups

/-- Every such line is marked, and each die logs its own in one record (14 R293, R294) (DESIGN CHOICE, log 34). -/
def loseRest (s : State) (core : Nat) (x : Rec) : State :=
  let ls := restLines s core x
  (List.range 4).foldl (fun s d =>
    match ls.filter fun l => l.1 == d with
    | [] => s
    | l :: r => logErrs s d 2 0 x.tag (64 * l.2) r.length) (ls.foldl (fun s l => loseLine s x l.1 l.2) s)

/-- A place lies in another package. -/
def isExt (p : Place) : Bool :=
  match p.store with
  | .ext _ => true
  | _ => false

/-- The source of a migration element lies in another package, which does not answer (DESIGN CHOICE, log 34). -/
def sourceGone (s : State) (x : Rec) (pl : RPlace) : Bool :=
  x.op == .mig && Config.sourceLost s.fresh &&
    (match pl with
     | .loc p => isExt p
     | .pair lo hi => (lo.toList ++ hi.toList).any isExt
     | .bytes l => l.any isExt
     | _ => false)

/-- The run of elements that an element of a descriptor is a part of. -/
def elemRun (s : State) (core : Nat) (x : Rec) (d : RDesc) (n e : Nat) (acc : Acc) : RPlace → Option LineRun
  | .loc p => lineRun s core x d n e acc p
  | .pair (some p) _ => lineRun s core x d n e acc p
  | _ => none

/-- The walk that translating an element makes, where its line asks for the element (13 R271; 21 R340) (DESIGN CHOICE, log 75). -/
def recAsk (s : State) (core : Nat) (x : Rec) (d : RDesc) (n e : Nat) (asks : Bool) : State :=
  let idx := nestIdx x.r n
  if !asks then s
  else if d.space = 7 then
    askWalk s core x.tag (missWalk s core (tagPart x.tag) x.tag (d.tensor s core) d.handle
      ((List.range 4).map fun k => ((d.coords.getD k 0 : Int) + (idx.getD k 0 : Int) * d.stride k).toNat))
  else if d.space = 8 then askFlat s (recTid core x) (linOff d idx e).toNat
  else s

/-- One element of a copy: both places first, then the read, then the write (R244, R246); `none` while it must wait. -/
def copyStep (s : State) (core : Nat) (x : Rec) : Option State :=
  let e := x.sizes s core
  match recPlace s core x x.d1 x.upc e.2 .load, recPlace s core x x.d0 x.upc e.1 .store with
  | .error a, .error b => some (recFault s core x (if causeRank a.cause ≤ causeRank b.cause then a else b))
  | .error a, .ok _ => some (recFault s core x a)
  | .ok _, .error b => some (recFault s core x b)
  | .ok (src, ts), .ok (dst, td) =>
    if sourceGone s x src then some (recFault (loseRest s core x) core x { ts with cause := 0x18 })
    else
      let from_ := asksPort (elemRun s core x x.d1 x.upc e.2 .load src)
      let to_ := elemRun s core x x.d0 x.upc e.1 .store dst
      match readRec (recAsk (recAsk s core x x.d1 x.upc e.2 from_) core x x.d0 x.upc e.1 (asksPort to_)) core x src e.2 from_ with
      | .error (.wait _) => none
      | .error (.cause c) => some (recFault s core x { ts with cause := c })
      | .ok (v, s1) =>
        let k := pieceOf to_
        if x.op = .cpcv then
          let r := cvElem s core x v
          some (stepRec (writeRec s1 core x dst e.1 r.1 td k) core x r.2)
        else if x.op = .cpbk then
          match dst with
          | .loc p => bkStep s1 core x p e.1 v td
          | _ => none
        else some (stepRec (writeRec s1 core x dst e.1 v td k) core x 0)

/-- Pages of a die's replica pool in use by a partition, and what it may hold (R258; 15 R302) (DESIGN CHOICE, log 34). -/
def replicaRoom (s : State) (p d : Nat) : Bool :=
  decide ((s.replicas.filter fun r => r.part == p && r.die == d).length < (s.part p).repl * 512)

/-- The page of an element is replicated on the dies of the mask (DESIGN CHOICE, log 34). -/
def replicate (s : State) (x : Rec) (pl : Place) : State :=
  match pl.store with
  | .hbm home =>
    let p := tagPart x.tag
    (List.range 4).foldl (fun s d =>
      let r : Replica := { part := p, handle := x.d1.handle, die := d, homeDie := home, frame := pl.addr / 4096,
                           version := (liveDesc s p x.d1.handle).version }
      if x.r.aux.getLsbD d && d != home && !s.replicas.contains r && replicaRoom s p d then { s with replicas := s.replicas ++ [r] }
      else s) s
  | _ => s

/-- One element of `migrep` (R258). -/
def migrepStep (s : State) (core : Nat) (x : Rec) : State :=
  match recPlace s core x x.d1 x.upc (x.sizes s core).2 .load with
  | .error t => recFault s core x t
  | .ok (.loc p, _) => stepRec (replicate (recAsk s core x x.d1 x.upc (x.sizes s core).2 true) x p) core x 0
  | .ok (.pair lo hi, _) => stepRec ((lo.toList ++ hi.toList).foldl (fun s p => replicate s x p) s) core x 0
  | .ok _ => stepRec s core x 0

/-! ## Zstandard frames (R253) -/

/-- Why a `cpdz` step stops: a wait, a cause, or a stream error. -/
inductive ZStop where
  | wait
  | cause (t : Trap)
  | stream (reason : Nat)
deriving DecidableEq, Repr

/-- A region that starts at a descriptor's BASE as a nest of bytes: its record, its descriptor, and the element that byte `n` is. -/
def byteNest (x : Rec) (d : RDesc) (n : Nat) : Rec × RDesc × Nat :=
  if d.space = 7 then (x, { d with strides := [], coords := [d.coords.getD 0 0 + n, 0, 0, 0] }, 0)
  else ({ x with r := { x.r with w1 := 0 } }, { d with strides := [0, 0, 0, 1], unit := 1 }, n)

/-- The place of byte `n`. -/
def bytePlace (s : State) (core : Nat) (x : Rec) (d : RDesc) (n : Nat) (acc : Acc) : Except Trap (RPlace × Trap) :=
  let b := byteNest x d n
  recPlace s core b.1 b.2.1 b.2.2 1 acc

/-- A byte that begins a line, or the region, asks the memory port (DESIGN CHOICE, log 75). -/
def zAsks (n : Nat) : RPlace → Bool
  | .loc p => n == 0 || p.addr % 64 == 0
  | _ => n == 0

/-- The walk of a byte's translation, where the byte asks. -/
def zAsk (s : State) (core : Nat) (x : Rec) (d : RDesc) (n : Nat) (pl : RPlace) : State :=
  let b := byteNest x d n
  recAsk s core b.1 b.2.1 b.2.2 1 (zAsks n pl)

/-- One byte of a region. -/
def zByte (s : State) (core : Nat) (x : Rec) (d : RDesc) (n : Nat) : Except ZStop (Byte × State) :=
  match bytePlace s core x d n .load with
  | .error t => .error (.cause t)
  | .ok (pl, t) =>
    match readRec (zAsk s core x d n pl) core x pl 1 (zAsks n pl) with
    | .error (.wait _) => .error .wait
    | .error (.cause c) => .error (.cause { t with cause := c })
    | .ok (v, s1) => .ok (BitVec.ofNat 8 v, s1)

/-- `n` bytes of a region from an offset. -/
def zBytes (core : Nat) (x : Rec) (d : RDesc) : Nat → Nat → State → Except ZStop (List Byte × State)
  | 0, _, s => .ok ([], s)
  | n + 1, off, s =>
    match zByte s core x d off with
    | .error e => .error e
    | .ok (b, s1) => (zBytes core x d n (off + 1) s1).map fun r => (b :: r.1, r.2)

/-- The byte `back` bytes behind the end of the output so far: in this block, in memory, or in the dictionary. -/
def zHistory (s : State) (core : Nat) (x : Rec) (z : ZState) (out : Array Byte) (off : Nat) : Except ZStop (Byte × State) :=
  if off ≤ out.size then .ok (out.getD (out.size - off) 0, s)
  else
    let back := off - out.size
    if back ≤ z.outPos then zByte s core x x.d0 (z.outPos - back)
    else .ok (z.dict.getD (z.dict.length - (back - z.outPos)) 0, s)

/-- A match is copied byte by byte. -/
def zCopy (core : Nat) (x : Rec) (z : ZState) (off : Nat) : Nat → State × Array Byte → Except ZStop (State × Array Byte)
  | 0, r => .ok r
  | n + 1, (s, out) =>
    match zHistory s core x z out off with
    | .error e => .error e
    | .ok (b, s1) => zCopy core x z off n (s1, out.push b)

/-- The sequences of a block, then its last literals. -/
def zRun (core : Nat) (x : Rec) (z : ZState) : List ZSeq → List Byte → State × Array Byte → Except ZStop (State × Array Byte)
  | [], lits, (s, out) => .ok (s, out ++ lits.toArray)
  | q :: qs, lits, (s, out) =>
    let out1 := out ++ (lits.take q.ll).toArray
    if !z.reaches (z.outPos + out1.size) q.off then .error (.stream 0x10)
    else
      match zCopy core x z q.off q.ml (s, out1) with
      | .error e => .error e
      | .ok r => zRun core x z qs (lits.drop q.ll) r

/-- What output byte `n` is to its line, when the block's bytes are those from `lo` to `hi` (21 R341). -/
def zPiece (n lo hi : Nat) : RPlace → Piece
  | .loc p =>
    let r := unitRange p.store (unitOf p.store p.addr)
    if lo + (p.addr - r.1) ≤ n ∧ n + (r.1 + r.2 - p.addr) ≤ hi then { line := true, last := p.addr + 1 == r.1 + r.2 } else {}
  | _ => {}

/-- The counter of a `cpdz`: input and output offsets of its next block (R245) (DESIGN CHOICE, log 33). -/
def zUpc (z : ZState) : Nat := z.inPos + 2 ^ 64 * z.outPos

/-- A `cpdz` stops; `none` while it waits. -/
def zStopped (s : State) (core : Nat) (x : Rec) : ZStop → Option State
  | .wait => none
  | .cause t => some (recFault s core x t)
  | .stream r => some (recFault s core x (reasonTrap x r))

/-- STORED and BOUND. -/
def zStored (x : Rec) : Nat := x.d1.second.toNat
/-- DESIGN CHOICE, log 33. -/
def zBound (x : Rec) : Nat := x.d0.second.toNat

/-- The decoder goes on; its counter is at the next block once the block at work has been written (R245). -/
def zSet (s : State) (core : Nat) (x : Rec) (z : ZState) : Option State :=
  some (mapRec s core x.id fun r => { r with z := some z, upc := if z.pend.isEmpty then zUpc z else r.upc })

/-- The next bytes of a part of a stream, from offset `pos` of a region, in the decoder's buffer: those of one 64-byte beat, of
`n` wanted (11 R223). -/
def zFetch (s : State) (core : Nat) (x : Rec) (z : ZState) (d : RDesc) (pos n : Nat) : Option State :=
  let a := pos + z.got.length
  match zBytes core x d (min (64 - a % 64) (n - z.got.length)) a s with
  | .error e => zStopped s core x e
  | .ok (l, s1) => zSet s1 core x { z with got := z.got ++ l }

/-- What is wrong of a header and its dictionary, or the decoder they begin. -/
def zStart (s : State) (core : Nat) (x : Rec) (z : ZState) (l : List Nat) : Option State :=
  if l.isEmpty then zSet s core x { z with header := none, got := [] } else zStopped s core x (.stream (leastReason l))

/-- The header (03 R34), which one beat holds; a dictionary is read after it. -/
def zBegin (s : State) (core : Nat) (x : Rec) : Option State :=
  match zBytes core x x.d1 (min zHeaderMax (zStored x)) 0 s with
  | .error e => zStopped s core x e
  | .ok (l, s1) =>
    match zHeader l (zStored x) with
    | none => zStopped s core x (.stream 0x10)
    | some (z, id) =>
      let bad := (if zBound x < z.size then [0x11] else []) ++ (if 0x800000 < z.window then [0x14] else [])
      if x.d2.space = 0 then zStart s1 core x z (bad ++ (if id ≠ 0 then [0x14] else []))
      else zSet s1 core x { z with header := some (id, bad) }

/-- The dictionary, beat by beat. -/
def zDictionary (s : State) (core : Nat) (x : Rec) (z : ZState) (id : Nat) (bad : List Nat) : Option State :=
  if z.got.length < x.d2.second.toNat then zFetch s core x z x.d2 0 x.d2.second.toNat
  else
    match zDict z z.got with
    | none => zStopped s core x (.stream 0x10)
    | some (z1, did) => zStart s core x z1 (bad ++ (if id ≠ 0 ∧ id ≠ did then [0x14] else []))

/-- The block of a header of type `ty` and size `n`, from its stored bytes. -/
def zBlockOf (z : ZState) (ty n : Nat) (l : List Byte) : Option ZBlock :=
  match ty with
  | 0 => some { lits := l, seqs := [], z }
  | 1 => some { lits := List.replicate n (l.headD 0), seqs := [], z }
  | 2 => zCompressed z l
  | _ => none

/-- The places of `n` output bytes from an offset, or the first cause among them. -/
def zPlaces (s : State) (core : Nat) (x : Rec) (off n : Nat) : Except Trap (List (RPlace × Trap)) :=
  (List.range n).mapM fun i => bytePlace s core x x.d0 (off + i) .store

/-- A block is expanded, with its window read from the output so far, and its output's places are looked at before any of it is
written (R245, R246). -/
def zExpand (s : State) (core : Nat) (x : Rec) (z : ZState) (b : ZBlock) (len : Nat) (last : Bool) : Option State :=
  if z.blockMax < b.size ∨ !b.litsOk then zStopped s core x (.stream 0x10)
  else if zBound x < z.outPos + b.size then zStopped s core x (.stream 0x11)
  else
    match zRun core x z b.seqs b.lits (s, #[]) with
    | .error e => zStopped s core x e
    | .ok (s1, out) =>
      match zPlaces s1 core x z.outPos out.size with
      | .error t => zStopped s core x (.cause t)
      | .ok _ =>
        zSet s1 core x { b.z with inPos := z.inPos + 3 + len, outPos := z.outPos + out.size, lastDone := last, got := [],
                                  pend := out.toList }

/-- A block: its header and its bytes are fetched beat by beat, then it is expanded (DESIGN CHOICE, log 33). -/
def zBlock (s : State) (core : Nat) (x : Rec) (z : ZState) : Option State :=
  if zStored x < z.inPos + 3 then zStopped s core x (.stream 0x10)
  else if z.got.length < 3 then zFetch s core x z x.d1 z.inPos 3
  else
    let v := zNum (z.got.take 3)
    let ty := v / 2 % 4
    let n := v / 8
    let len := if ty = 1 then 1 else n
    if zStored x < z.inPos + 3 + len ∨ z.blockMax < n then zStopped s core x (.stream 0x10)
    else if z.got.length < 3 + len then zFetch s core x z x.d1 z.inPos (3 + len)
    else
      match zBlockOf z ty n (z.got.drop 3) with
      | none => zStopped s core x (.stream 0x10)
      | some b => zExpand s core x z b len (v % 2 == 1)

/-- The next beat of a block's output: its places first, then its bytes, each written once (11 R218, R223). A `cpdz` has no
nest: each output byte is an element of its own where LATEW counts (13 R263) (DESIGN CHOICE, log 88). -/
def zWrite (s : State) (core : Nat) (x : Rec) (z : ZState) : Option State :=
  let a := z.outPos - z.pend.length
  let k := min (64 - a % 64) z.pend.length
  match zPlaces s core x a k with
  | .error t => some (recFault s core x t)
  | .ok ps =>
    let s1 := (ps.zip (z.pend.take k)).zipIdx.foldl (fun s w =>
      let pl := w.1.1.1
      writeRec (zAsk s core x x.d0 (a + w.2) pl) core x pl 1 w.1.2.toNat w.1.1.2 (zPiece (a + w.2) (x.upc / 2 ^ 64) z.outPos pl)) s
    zSet s1 core x { z with pend := z.pend.drop k }

/-- The end of the frame: nothing follows it, the size is the one named, and the checksum matches (R253); checksum and output are
fetched beat by beat. -/
def zEnd (s : State) (core : Nat) (x : Rec) (z : ZState) : Option State :=
  let n := if z.checksum then 4 else 0
  let bad := (if zStored x ≠ z.inPos + n then [0x10] else []) ++ (if z.outPos ≠ z.size then [0x12] else [])
  if !bad.isEmpty then zStopped s core x (.stream (leastReason bad))
  else if !z.checksum then zSet s core x { z with ended := true }
  else if z.got.length < 4 then zFetch s core x z x.d1 z.inPos 4
  else if z.got.length < 4 + z.outPos then
    match zBytes core x x.d0 (min (64 - (z.got.length - 4) % 64) (4 + z.outPos - z.got.length)) (z.got.length - 4) s with
    | .error e => zStopped s core x e
    | .ok (l, s1) => zSet s1 core x { z with got := z.got ++ l }
  else if zNum (z.got.take 4) ≠ (xxh64 (z.got.drop 4)).toNat % 2 ^ 32 then zStopped s core x (.stream 0x13)
  else zSet s core x { z with ended := true }

/-- One beat, or one step, of `cpdz`. -/
def zStep (s : State) (core : Nat) (x : Rec) : Option State :=
  match x.z with
  | none => zBegin s core x
  | some z =>
    match z.header with
    | some (id, bad) => zDictionary s core x z id bad
    | none =>
      if !z.pend.isEmpty then zWrite s core x z
      else if !z.lastDone then zBlock s core x z
      else if !z.ended then zEnd s core x z
      else none

/-! ## Collectives (R255) -/

/-- Why an element of a collective is not done: a wait, or a member's record that meets a cause. -/
inductive CollStop where
  | wait
  | fault (core : Nat) (x : Rec) (t : Trap)
deriving DecidableEq, Repr

/-- A member's element of D1. -/
def memberRead (s : State) (m : Nat × Rec) (k : Nat) : Except CollStop (Nat × State) :=
  let e := (m.2.sizes s m.1).2
  match recPlace s m.1 m.2 m.2.d1 k e .load with
  | .error t => .error (.fault m.1 m.2 t)
  | .ok (pl, t) =>
    let asks := asksPort (elemRun s m.1 m.2 m.2.d1 k e .load pl)
    match readRec (recAsk s m.1 m.2 m.2.d1 k e asks) m.1 m.2 pl e asks with
    | .error (.wait _) => .error .wait
    | .error (.cause c) => .error (.fault m.1 m.2 { t with cause := c })
    | .ok r => .ok r

/-- Element `k` of every member, in rank order. -/
def membersRead : List (Nat × Rec) → Nat → State → Except CollStop (List Nat × State)
  | [], _, s => .ok ([], s)
  | m :: l, k, s =>
    match memberRead s m k with
    | .error e => .error e
    | .ok (v, s1) => (membersRead l k s1).map fun r => (v :: r.1, r.2)

/-- The members' values combined in rank order. -/
def collCombine (op : Nat) (ty : Ty) (vs : List Nat) : Nat × Flags :=
  if op = 6 then
    let r := Num.sum (vs.map (numOf ty))
    let y := finish ty 0 0 r.1
    (y.1, r.2 ||| y.2)
  else
    match vs with
    | [] => (0, 0)
    | v :: l => l.foldl (fun (a : Nat × Flags) b => let r := bkNew op ty false a.1 b; (r.1, a.2 ||| r.2)) (v, 0)

/-- What each member writes in this step: its rank, the element of D0, the value and the flags. -/
def collWrites (s : State) (ms : List (Nat × Rec)) (x : Rec) (ty : Ty) : Except CollStop (List (Nat × Nat × Nat × Flags) × State) :=
  let p := ms.length
  let per := nestSize x.r / p
  let all := fun (r : List Nat × State) k v fl => ((List.range p).map fun m => (m, k, v, fl), r.2)
  match collKind x with
  | 0 => (membersRead ms x.upc s).map fun r => let c := collCombine (collOp x) ty r.1; all r x.upc c.1 c.2
  | 1 =>
    (List.range p).foldl (fun acc m =>
      match acc with
      | .error e => .error e
      | .ok (l, s) => (membersRead ms (m * per + x.upc) s).map fun r =>
          let c := collCombine (collOp x) ty r.1
          (l ++ [(m, x.upc, c.1, c.2)], r.2)) (.ok ([], s))
  | 2 => (membersRead ms x.upc s).map fun r =>
      (r.1.zipIdx.flatMap fun v => (List.range p).map fun m => (m, v.2 * per + x.upc, v.1, (0 : Flags)), r.2)
  | _ => (membersRead (ms.take 1) x.upc s).map fun r => all r x.upc (r.1.headD 0) 0

/-- One write of a collective: at a member's record, an element, what it is to its line, and what a loss reports. -/
structure CollWrite where
  core : Nat
  x : Rec
  pl : RPlace
  n : Nat
  e : Nat
  v : Nat
  t : Trap
  k : Option LineRun

/-- The writes are made, each at its member; their places have been found first. -/
def collPlaces (s : State) (ms : List (Nat × Rec)) : List (Nat × Nat × Nat × Flags) → Except CollStop (List CollWrite)
  | [] => .ok []
  | w :: l =>
    match ms[w.1]? with
    | none => collPlaces s ms l
    | some m =>
      let e := (m.2.sizes s m.1).1
      match recPlace s m.1 m.2 m.2.d0 w.2.1 e .store with
      | .error t => .error (.fault m.1 m.2 t)
      | .ok (pl, t) =>
        let k := elemRun s m.1 m.2 m.2.d0 w.2.1 e .store pl
        (collPlaces s ms l).map fun r => { core := m.1, x := m.2, pl, n := w.2.1, e, v := w.2.2.1, t, k } :: r

/-- The matching records of every member, all running at one counter (R245). -/
def collReady (s : State) (core : Nat) (x : Rec) : Option (List (Nat × Rec)) :=
  (collMembers s core x).mapM fun m =>
    match m.2 with
    | some r => if r.status == .running && !r.parked && r.upc == x.upc && recMay s m.1 then some (m.1, r) else none
    | none => none

/-- What each member writes, where, and the state after the reads. -/
def collPlan (s : State) (ms : List (Nat × Rec)) (x : Rec) (ty : Ty) :
    Except CollStop (List (Nat × Nat × Nat × Flags) × List CollWrite × State) :=
  match collWrites s ms x ty with
  | .error e => .error e
  | .ok (ws, s1) => (collPlaces s1 ms ws).map fun l => (ws, l, s1)

/-- One element of a collective, done by all its members together: they switch as a whole (R245, R255). -/
def collStep (s : State) (core : Nat) (x : Rec) : Option State :=
  match collReady s core x, descTy s core x.d0 with
  | some ms, some ty =>
    (match collPlan s ms x ty with
     | .error .wait => none
     | .error (.fault c y t) => some (recFault s c y t)
     | .ok (ws, l, s1) =>
       let s2 := l.foldl (fun s w =>
         writeRec (recAsk s w.core w.x w.x.d0 w.n w.e (asksPort w.k)) w.core w.x w.pl w.e w.v w.t (pieceOf w.k)) s1
       some (ms.zipIdx.foldl (fun s m =>
         let fl := orFlags ((ws.filter fun w => w.1 == m.2).map fun w => w.2.2.2)
         stepRec s m.1.1 m.1.2 fl) s2))
  | _, _ => none

/-! ## Elements and completion -/

/-- Elements, steps or blocks a record has. -/
def stepsOf (s : State) (core : Nat) (x : Rec) : Nat :=
  match x.op with
  | .mmul | .mmod => trip x.r 0
  | .mtr => 1
  | .coll => collSteps x (collMembers s core x).length
  | _ => nestSize x.r

/-- Everything a record does has been done. -/
def recDone (s : State) (core : Nat) (x : Rec) : Bool :=
  match x.op with
  | .mmulc => decide (blocksOf x.r ≤ x.doneBlocks.length)
  | .cpdz => (match x.z with | some z => z.ended | none => false)
  | .note => false
  | _ => decide (stepsOf s core x ≤ x.upc)

/-- The next element operation of a record on an engine; `none` while it must wait. -/
def engineStep (s : State) (core : Nat) (x : Rec) : Option State :=
  match x.op with
  | .cpdz => zStep s core x
  | .migrep => some (migrepStep s core x)
  | .coll => collStep s core x
  | _ => (reserveAgain s core x).bind fun s1 => copyStep s1 core x

/-! ### An engine shared by its contexts (11 R223) -/

/-- The record has a part of a 64-byte beat behind it: it holds its grant. A step of a `cpdz` is a beat. -/
def midBeat (s : State) (core : Nat) (x : Rec) : Bool := x.op != .cpdz && x.upc * (x.sizes s core).1 % 64 != 0

/-- Records that run on the contexts of the same engine, each with its core. -/
def engineMates (s : State) (core : Nat) (x : Rec) : List (Nat × Rec) :=
  (dieCores s (dieOf core)).flatMap fun c =>
    ((engineQueue (x.op == .coll) (s.core c)).filter fun r =>
      r.status == .running && r.op != .note && r.engine == x.engine && !r.parked).map fun r => (c, r)

/-- The record has a beat ready. -/
def beatReady (s : State) (core : Nat) (x : Rec) : Bool :=
  x.status == .running && !x.parked && recGoes s core x && !recDone s core x && (engineStep s core x).isSome

/-- The issuer of a beat, core-in-die first, and its record's number: of a collective those of its first member, for all of its
members (DESIGN CHOICE, log 89). -/
def issuerKey (s : State) (core : Nat) (x : Rec) : Nat × Nat × Nat :=
  let key := fun (c : Nat) (r : Rec) => (if isSvc c then 64 else c % 64, c, r.id)
  if x.op = .coll then
    (match collMembers s core x with
     | (c, some r) :: _ => key c r
     | _ => key core x)
  else key core x

/-- The order of two issuers. -/
def issuerBefore (a b : Nat × Nat × Nat) : Bool :=
  decide (a.1 < b.1) || (a.1 == b.1 && (decide (a.2.1 < b.2.1) || (a.2.1 == b.2.1 && decide (a.2.2 < b.2.2))))

/-- One waiter goes before another: the one whose beat is granted, then the older, then the lower core-in-die (11 R223), then of
one core the record issued earlier (DESIGN CHOICE, log 89). -/
def beatBefore (s : State) (a b : Nat × Rec) : Bool :=
  let m := fun (y : Nat × Rec) => midBeat s y.1 y.2
  (m a && !m b) || (m a == m b && (decide (b.2.age < a.2.age) || (a.2.age == b.2.age &&
    issuerBefore (issuerKey s a.1 a.2) (issuerKey s b.1 b.2))))

/-- The records that move together: those of a collective's members, or one. -/
def movedBy (s : State) (core : Nat) (x : Rec) : List (Nat × Rec) :=
  if x.op = .coll then (collMembers s core x).filterMap fun m => m.2.map (m.1, ·) else [(core, x)]

/-- The engines serve the record now: a collective's beat is granted on every die that has a member. -/
def served (s : State) (core : Nat) (x : Rec) : Bool :=
  (movedBy s core x).all fun m => (engineMates s m.1 m.2).all fun y => !(beatBefore s y m && beatReady s y.1 y.2)

/-- A granted waiter's age returns to 0. -/
def resetAge (s : State) (core : Nat) (x : Rec) : State :=
  (movedBy s core x).foldl (fun s m => mapRec s m.1 m.2.id fun r => { r with age := 0 }) s

/-- A context of its engine is free for a record that has come back from a shadow bank without one (R222). -/
def contextBack (s : State) (core : Nat) (x : Rec) : Bool :=
  if x.op = .coll then collBegun s false core x || collRoom s false core x
  else decide (copyBusy s false (dieOf core) x.engine < 4)

/-- It takes the context. -/
def unpark (s : State) (core : Nat) (x : Rec) : State :=
  if contextBack s core x then mapRec s core x.id fun r => { r with parked := false } else s

/-- `RECORD_ELEMENT`: the next element operation of a running record that its engine serves, or the context it waits for; the array serves a plain matrix record
in a tenure of its core (07 R136), for which one resumed outside any waits again (07 R150). Blocks of `mmulc` have their own
event. -/
def execRecordElement (core rid : Nat) (s : State) : Out :=
  .next (match findRec s core rid with
    | none => s
    | some x =>
      if x.status != .running || !recGoes s core x || recDone s core x then s
      else if x.parked then unpark s core x
      else
        match x.op with
        | .mmul | .mmod => (match mulTy x, arrayServes s core with | some t, true => mulStep s core x t | _, _ => s)
        | .mtr => if arrayServes s core then mtrStep s core x else s
        | .mmulc | .note => s
        | _ => if served s core x then ((engineStep s core x).map fun s1 => resetAge s1 core x).getD s else s)

/-- A missed deadline is counted, and raises cause 0x39 when COUNT becomes LIMIT (R256, R257). -/
def missDeadline (s : State) (core : Nat) (x : Rec) : State :=
  let p := tagPart x.tag
  let q := s.part p
  let n : BitVec 16 := if q.slipCount = 0xFFFF then q.slipCount else q.slipCount + 1
  let s1 := mapRec (s.setPart p { q with slipCount := n }) core x.id fun r => { r with deadline := none, missed := false }
  if q.slipLimit ≠ 0 ∧ n = q.slipLimit ∧ n ≠ q.slipCount then
    addPend s1 (recTid core x) { recTrap x { cause := 0x39, kind := 1, info := x.pc.toNat } with rid := none }
  else s1

/-- `MIG_DEADLINE_MISS`. -/
def execMigDeadlineMiss (core rid : Nat) (s : State) : Out :=
  .next (match findRec s core rid with
    | some x => if x.missed && x.deadline.isSome then missDeadline s core x else s
    | none => s)

/-- A record's release at its scope: what it waits for is fixed when its last write has been issued (08 R164 item 3). -/
def relClockOf (s : State) (core : Nat) (x : Rec) : Tab Nat := (x.relClock).getD (s.die (dieOf core)).clock
def relMet (s : State) (core : Nat) (x : Rec) : Bool :=
  x.r.rel != 1 || orderMet s (dieOf core) x.r.scp.toNat (relClockOf s core x)
/-- It begins to wait. -/
def relWait (s : State) (core : Nat) (x : Rec) : State :=
  mapRec s core x.id fun r => { r with relClock := some (relClockOf s core x) }

/-- A record's flags in its issuer's FPSTAT, and in what a fault of an access thread's queue load would restore (05 R92;
10 R195). -/
def raiseFlags (s : State) (core : Nat) (x : Rec) : State :=
  let tid := recTid core x
  let up := fun (t : Thread) => { t with fpstat := t.fpstat ||| x.flags }
  let s1 := s.setThread tid (up (s.thread tid))
  if x.exe ∨ x.flags = 0 then s1
  else
    let c := s1.core core
    s1.setCore core { c with queues := c.queues.map fun q => (q.1, q.2.map fun e => { e with ckpt := e.ckpt.map up }) }

/-- The writes the record's thread has made to near stores and bank memory are applied (08 R164), or dropped (13 R266). -/
def landed (s : State) (core : Nat) (x : Rec) : Bool :=
  (unapplied s (dieOf core)).all fun w => w.tid != recTid core x ||
    (match w.op with
     | .bytes (.near _) _ | .bytes (.bank _) _ => false
     | _ => true)

/-- The claim of a core whose partition's tenancy has ended ends with its last plain record (13 R265). -/
def dropClaim (s : State) (core : Nat) (x : Rec) : State :=
  if x.tag = tagOf s (tagPart x.tag) then s
  else setLease s core { (s.core core).lease with claim := false, tenure := false, asker := none }

/-- What a record's end leaves: its flags, its lease's count, its reservations, its collective's number (R92, R136, R146). -/
def endRec (s : State) (core : Nat) (x : Rec) : State :=
  let s0 := if x.missed && x.deadline.isSome then missDeadline s core x else s
  let s2 := raiseFlags (dropRec s0 core x.id) core x
  if x.op.isPlain then dropClaim (tenureRecord s2 core) core x
  else if x.op = .mmulc then settleTenure (endReservations s2 core x.id) (groupOf core)
  else if x.op = .coll then
    s2.setCore core { s2.core core with collsDone := tput 0 (s2.core core).collsDone x.r.scp.toNat x.collNo }
  else s2

/-- `RECORD_COMPLETE`. A record's ranges are free for the next once its writes in local windows have landed (R164 item 7). -/
def execRecordComplete (core rid : Nat) (s : State) : Out :=
  .next (match findRec s core rid with
    | none => s
    | some x =>
      if x.status != .running || !recMay s core || !recDone s core x || !landed s core x then s
      else if relMet s core x then endRec s core x else relWait s core x)

/-- `NOTE_COMPLETE`: every record ahead of the marker in its queues has completed (R221, R259). -/
def execNoteComplete (core rid : Nat) (s : State) : Out :=
  .next (match findRec s core rid with
    | none => s
    | some x =>
      if x.op != .note || !recMay s core || x.ahead.any (fun r => (findRec s core r).isSome) then s
      else if relMet s core x then noteEvent (dropRec s core x.id) (recTid core x) x.tag x.r else relWait s core x)

end Sys2Proof.Machine
end

