-- ==== Sys2Proof/Machine/Launch.lean ====
section
/-! DEFINITION. Launches, slices, gang switches, watchdogs and context removal (11 R211-R217, R224-R230; 14 R288). -/

namespace Sys2Proof.Machine

open Sys2Proof

/-! ## A partition's flat space, as the device reaches it -/

/-- A core number that has no descriptor cache and no TLB: the device's own accesses. -/
def deviceCore : Nat := 1000

/-- The place of one byte of a partition's flat space. -/
def flatByte (s : State) (p a : Nat) (acc : Acc) : Except Trap Place :=
  if 0xF00000000000 ≤ a then .error (flatTrap 0x15 a)
  else elemPlace s deviceCore p (tagOf s p) (readDesc s none p 0) 0 [a, 0, 0, 0] acc (flatTrap 0x13 a)

/-- Bytes read one after another, if none is poisoned; another package's are free values. -/
def readPlaces (w : Who) : List Place → State → Option (List Byte × State)
  | [], s => some ([], s)
  | p :: l, s =>
    if (poisonIn s w p.store p.addr 1).isSome then none
    else
      (readPlaces w l (useFresh s w p.store p.addr 1)).map fun r => ((readAlong s w .home p.store p.addr 1).headD 0 :: r.1, r.2)

/-- What an access of a die to places asks of frames and memory ports (21 R336, R340). -/
def askPlaces (s : State) (d : Nat) (w : Who) (l : List Place) (reads : Bool) : State :=
  let s1 := l.foldl (fun s p => touchFrame s d p) s
  if reads then (portRuns (l.map fun p => (p, 8))).foldl (fun s r => readPort s w r.1 r.2.1 (r.2.2 - r.2.1)) s1 else s1

/-- The places of `n` bytes of a partition's flat space. -/
def flatPlaces (s : State) (p a n : Nat) (acc : Acc) : Option (List Place) :=
  (List.range n).mapM fun i => (flatByte s p (a + i) acc).toOption

/-- `n` bytes of a tenant's flat space under its current tag, if all of them can be read. -/
def flatRead (s : State) (p a n : Nat) : Option (List Byte) :=
  (flatPlaces s p a n .load).bind fun l => (readPlaces { tag := tagOf s p } l s).map (·.1)

/-- A little-endian number of a tenant's flat space. -/
def flatNat (s : State) (p a n : Nat) : Option Nat := (flatRead s p a n).map leNat

/-- Bytes at places, gathered by tag unit: the unit's store and its cells. -/
def gatherCells (l : List (Place × Byte)) : List ((Store × Nat) × List WCell) :=
  l.foldr (fun x acc =>
    let k := (x.1.store, unitOf x.1.store x.1.addr)
    let c : WCell := { addr := x.1.addr, val := x.2, mask := 0xFF }
    match acc with
    | (k', cs) :: r => if k' = k then (k, c :: cs) :: r else (k, [c]) :: acc
    | [] => [(k, [c])]) []

/-- Bytes stored at places as one store of `w`: its units are written one after another, and it counts once. -/
def storePlaces (s : State) (w : Who) (l : List (Place × Byte)) : State :=
  let gs := gatherCells l
  gs.zipIdx.foldl (fun s g => performOp s { w with piece := { nth := g.2, ends := g.2 + 1 == gs.length }, store := 0 } (.bytes g.1.1.1 g.1.2))
    { s with counted := s.counted.filter (· != 0) }

/-- Bytes written by the device in a partition's flat space, under a tag, as an access of die 0 (DESIGN CHOICE, log 65). -/
def flatWrite (s : State) (tag : Tag) (a : Nat) (l : List Byte) : State :=
  let ps := l.zipIdx.filterMap fun b => ((flatByte s (tagPart tag) (a + b.2) .store).toOption).map fun p => (p, b.1)
  storePlaces (askPlaces s 0 { tag } (ps.map (·.1)) false) { tag } ps

/-- What reading `n` bytes of a tenant's flat space asks of frames and memory ports, as an access of die 0 (21 R340)
(DESIGN CHOICE, log 65). -/
def flatAsk (s : State) (p a n : Nat) : State :=
  match flatPlaces s p a n .load with
  | some l => askPlaces s 0 { tag := tagOf s p } l true
  | none => s

/-! ## The launch table (R211-R213) -/

/-- Bits of a mask of `n` bytes at an offset of a record. -/
def maskBits (l : List Byte) (off n : Nat) : Nat := leNat ((l.drop off).take n)

/-- The launch of a record of 128 bytes. -/
def launchOfRecord (id : Nat) (l : List Byte) : Launch :=
  let w := fun o n => leNat ((l.drop o).take n)
  let ctrl := w 0x78 8
  { id, eentry := BitVec.ofNat 64 (w 0 8), aentry := BitVec.ofNat 64 (w 8 8),
    cores := (List.range 256).filter fun c => (maskBits l 0x10 32).testBit c,
    arg := BitVec.ofNat 64 (w 0x30 8), wait := BitVec.ofNat 256 (w 0x38 32), set := BitVec.ofNat 256 (w 0x58 32),
    timeout := ctrl / 2 ^ 40, jobn := ctrl / 2 ^ 24 % 2 ^ 16, job := ctrl / 2 ^ 8 % 2 ^ 16, hard := ctrl / 16 % 4 == 1,
    persist := ctrl / 8 % 2 == 1, prio := ctrl % 8 }

/-- The reason a record is refused (R213). -/
def refuseReason (s : State) (p : Nat) (l : List Byte) : Option Nat :=
  let x := launchOfRecord 0 l
  let ctrl := leNat ((l.drop 0x78).take 8)
  if ctrl / 64 % 4 ≠ 0 ∨ 2 ≤ ctrl / 16 % 4 then some 1
  else if x.eentry = 0 ∨ x.eentry.toNat % 8 ≠ 0 ∨ x.aentry.toNat % 8 ≠ 0 then some 2
  else if x.cores.isEmpty ∨ x.cores.any (fun c => !(s.part p).groups.getLsbD (groupOf c)) then some 3
  else if x.timeout = 0 then some 4
  else if x.jobn ≠ 0 ∧ x.jobn < x.cores.length then some 5
  else none

/-- The reads of a launch record and of the three words after the table (R211; 21 R340). -/
def tableAsks (s : State) (p base slot : Nat) : State := flatAsk (flatAsk s p (base + 0x2000) 24) p (base + 128 * slot) 128

/-- `LAUNCH_CONSUME`: the next record is taken, checked and counted (DEDUCED, log 37). -/
def execLaunchConsume (part : Nat) (s : State) : Out :=
  let p := s.part part
  let b := p.lbase
  .next (match flatNat s part (b + 0x2000) 4, flatNat s part (b + 0x2008) 4 with
    | some flag, some used =>
      let slot := used % 64
      if part = 0 ∨ !p.isOpen ∨ flag = used ∨ 64 ≤ (p.launches.filter fun l => l.status != .running).length then s
      else
        match flatRead s part (b + 128 * slot) 128, flatNat s part (b + 0x2010) 8 with
        | some l, some old =>
          let s1 := flatWrite (tableAsks s part b slot) (tagOf s part) (b + 0x2008) (leBytes 4 (used + 1))
          (match refuseReason s part l with
           | some r =>
             flatWrite s1 (tagOf s part) (b + 0x2010) (leBytes 8 ((old / 2 ^ 32 + 1) % 2 ^ 32 * 2 ^ 32 + r * 2 ^ 8 + slot))
           | none =>
             let q := s1.part part
             s1.setPart part { q with launches := q.launches ++ [launchOfRecord q.nextLaunch l], nextLaunch := q.nextLaunch + 1 })
        | _, _ => s
    | _, _ => s)

/-! ## Dispatch (R214) -/

/-- A core is free: no launch runs on it or has been chosen for it, and none of its records is left. -/
def coreFree (s : State) (p core : Nat) : Bool :=
  (s.core core).launch.isNone && (s.core core).records.isEmpty
    && !(s.part p).launches.any fun l => !l.pendingAt s.tick && l.cores.contains core

/-- The bits of its WAIT mask were 1 as the boundary came, and its core was free then (R214, R216). -/
def bitsWere (p : Part) (m : BitVec 256) : Bool := m &&& p.bitsHeld == m
def coreWas (p : Part) (core : Nat) : Bool := !p.busyHeld.getLsbD core

/-- Dispatch order: priority, then the order of consumption. -/
def before (a b : Launch) : Bool := decide (b.prio < a.prio) || (a.prio == b.prio && decide (a.id < b.id))
def insertLaunch (x : Launch) : List Launch → List Launch
  | [] => [x]
  | y :: l => if before x y then x :: y :: l else y :: insertLaunch x l
def dispatchOrder (l : List Launch) : List Launch := l.foldr insertLaunch []

/-- Go through the pending launches: those chosen, and the cores taken or reserved so far. -/
def chooseLaunches (s : State) (p : Nat) : List Launch → List Nat → List Nat
  | [], _ => []
  | x :: l, taken =>
    if !bitsWere (s.part p) x.wait then chooseLaunches s p l taken
    else
      let live := x.cores.all fun c => (s.group (groupOf c)).live == some p
      if live && (x.cores.all fun c => coreFree s p c && coreWas (s.part p) c && !taken.contains c) then
        x.id :: chooseLaunches s p l (taken ++ x.cores)
      else chooseLaunches s p l (taken ++ x.cores)

/-- `DISPATCH`, once at a schedule-tick boundary, from event bits and cores as the boundary found them. -/
def execDispatch (part : Nat) (s : State) : Out :=
  let p := s.part part
  let ids := chooseLaunches s part (dispatchOrder (p.launches.filter (·.pendingAt s.tick))) []
  .next (if part = 0 ∨ !s.boundary ∨ !p.isOpen ∨ !liveAll s part ∨ p.switching.isSome ∨ p.resume ∨ p.dispatched = some s.tick then s
    else
      let choose := fun (l : Launch) =>
        if ids.contains l.id then { l with status := .chosen s.tick }
        else if l.pendingAt s.tick then { l with status := .pending } else l
      s.setPart part { p with launches := p.launches.map choose, dispatched := some s.tick })

/-! ## Start and completion (R215-R217) -/

/-- The DOMAIN register of a core of a launch. -/
def domainWord (l : Launch) (core : Nat) : Word :=
  let n := fun f => (l.cores.filter f).length
  BitVec.ofNat 64 (l.job * 2 ^ 48 + (if l.jobn = 0 then l.cores.length else l.jobn) % 2 ^ 16 * 2 ^ 32
    + l.cores.length % 2 ^ 9 * 2 ^ 23 + n (fun c => dieOf c == dieOf core) % 2 ^ 7 * 2 ^ 16
    + n (fun c => groupOf c == groupOf core) % 2 ^ 3 * 2 ^ 13 + l.cores.idxOf core)

/-- A thread at launch entry (04 R54). -/
def entryThread (l : Launch) (core : Nat) (pc : Word) (tag : Tag) : Thread :=
  { status := .running, pc, atEntry := true, entered := true, tag,
    window := [.s (BitVec.ofNat 64 (l.cores.idxOf core)), .s (BitVec.ofNat 64 l.cores.length), .s l.arg] }

/-- A placed core at launch start: tiles, near store, patterns and TLB stay (R215) (DEDUCED, log 37). -/
def startCore (s : State) (l : Launch) (core : Nat) : State :=
  let c := s.core core
  let s1 := s.setCore core
    { c with queues := [], owed := [], unseen := [], matQ := [], copyQ := [], collQ := [],
             lease := { lender := c.lease.lender }, domain := domainWord l core,
             wdog := { left := l.timeout, grace := c.wdog.grace, fired := false, mode := l.persist, zeroAt := s.cycle },
             view := some (viewNow s), launch := some l.id, noticeSeq := 0, colls := [], collsDone := [] }
  let tag := tagOf s (partOf s core)
  let s2 := s1.setThread (2 * core + 1) (entryThread l core l.eentry tag)
  s2.setThread (2 * core) (if l.aentry = 0 then { status := .done, tag } else entryThread l core l.aentry tag)

/-- The partition runs: it is open, live on all its groups, not being stopped or removed, not saved, and has nothing still
to resume (R228; 13 R264; 15 R304). -/
def running (s : State) (part : Nat) : Bool :=
  let p := s.part part
  p.isOpen && liveAll s part && p.switching.isNone && p.removal.isNone && !p.saved && !p.resume

/-- `LAUNCH_START`: at the boundary that opens the tick after the one in which it was chosen, if its partition runs; the
descriptor caches are of that boundary (R215; 13 R274) (DEDUCED, log 37). -/
def execLaunchStart (part launch : Nat) (s : State) : Out :=
  let p := s.part part
  .next (match p.launches.find? fun l => l.id == launch with
    | some l =>
      (match l.status with
       | .chosen t =>
         if s.tick = t + 1 ∧ s.boundary = true ∧ running s part = true then
           let s1 := l.cores.foldl (fun s c => startCore s l c) s
           let q := s1.part part
           s1.setPart part { q with
             launches := q.launches.map fun x => if x.id = launch then { x with status := .running, ticks := 0 } else x,
             arrivals := q.arrivals.filter fun a => !l.cores.contains (coreOf a.tid) }
         else s
       | _ => s)
    | none => s)

/-- A launch has nothing left to do: threads, records and pending entries (R216). -/
def launchDone (s : State) (l : Launch) : Bool :=
  l.cores.all fun c =>
    (s.thread (2 * c)).status == .done && (s.thread (2 * c + 1)).status == .done
      && (s.thread (2 * c)).pend.isEmpty && (s.thread (2 * c + 1)).pend.isEmpty
      && (s.core c).records.isEmpty && (s.core c).queues.all fun q => q.2.all fun e => e.status == .ready

/-- Every write of its dies is visible system-wide: the release of its SET (R216). -/
def launchReleased (s : State) (l : Launch) : Bool :=
  (l.cores.map dieOf).eraseDups.all fun d => orderMet s d 5 (s.die d).clock

/-- A thread that its launch has left: it runs no more, and its registers stand until the next launch entry (R215). -/
def leaveThread (t : Thread) : Thread := { t with status := .off, fin := false, ansRec := none }

/-- The core is left by its launch: ready entries discarded, the claim ended, the threads ended (DEDUCED, log 37). -/
def leaveCore (s : State) (core : Nat) : State :=
  let c := s.core core
  let s1 := s.setCore core { c with queues := [], owed := [], lease := { lender := c.lease.lender }, launch := none }
  (s1.setThread (2 * core) (leaveThread (s1.thread (2 * core)))).setThread (2 * core + 1) (leaveThread (s1.thread (2 * core + 1)))

/-- Other running launches of a launch's job. -/
def jobOthers (s : State) (part : Nat) (l : Launch) : List Launch :=
  (s.part part).launches.filter fun m => m.status == .running && m.id != l.id && m.job == l.job && m.jobn != 0

/-- Job-level barriers that other launches of the job wait in and that a launch ends without reaching stay stuck; those of
a job no launch of which is left are forgotten (10 R202) (DEDUCED, log 39). -/
def leaveBarriers (s : State) (part : Nat) (l : Launch) : List (Nat × Nat) :=
  let old := (s.part part).stuckSyncs
  let others := jobOthers s part l
  if l.jobn = 0 then old
  else if others.isEmpty then old.filter fun e => e.1 != l.job
  else
    let waits := (s.part part).arrivals.filter fun a =>
      a.level == 5 && others.any (fun m => m.cores.contains (coreOf a.tid)) && syncNumber (s.thread a.tid) 5 == a.n
    old ++ ((waits.filter fun a => !l.cores.all (coreArrived s part 5 a.n)).map fun a => (l.job, a.n)).eraseDups

/-- `LAUNCH_COMPLETE`: the SET bits are written, and the cores are left. -/
def execLaunchComplete (part launch : Nat) (s : State) : Out :=
  .next (match (s.part part).launches.find? fun l => l.id == launch with
    | some l =>
      if l.status == .running && liveAll s part && launchDone s l && launchReleased s l then
        let s1 := (List.range 256).foldl (fun s i =>
          if l.set.getLsbD i then writeEvent s { tag := tagOf s part } part i true else s) s
        let s2 := l.cores.foldl leaveCore s1
        s2.setPart part { s2.part part with launches := (s2.part part).launches.filter (fun x => x.id != launch),
                                            stuckSyncs := leaveBarriers s part l }
      else s
    | none => s)

/-! ## Stopping and switching (R224-R228) -/

/-- A thread is asked to stop: a hard stop acts at once at a boundary, unless a cause is to be taken there first (14 R285). -/
def askStop (t : Thread) (hard : Bool) : Thread :=
  match t.status with
  | .running | .waiting _ =>
    if hard then (if atBoundary t && !causeWaits t then stopThread t else { t with hard := true }) else { t with soft := true }
  | _ => t

/-- Every thread of a core is asked to stop, by its launch's slice policy or hard. -/
def stopOf (s : State) (core : Nat) (hard : Bool) : State :=
  let h := hard || (match launchOf s core with | some l => l.hard | none => true)
  (s.setThread (2 * core) (askStop (s.thread (2 * core)) h)).setThread (2 * core + 1) (askStop (s.thread (2 * core + 1)) h)
def stopPart (s : State) (p : Nat) (hard : Bool) : State := (liveCores s p).foldl (fun s c => stopOf s c hard) s

/-- A `dusk` of the partition waits for its started records, which only a live partition's engines finish: no switch takes it out
before that (13 R265 step 5) (DEDUCED, log 41). -/
def duskWaits (s : State) (p : Nat) : Bool := s.threads.any fun t => t.2.status == .waiting (.dusk p)

/-- `SLICE_END`: the device decides whether the groups pass. -/
def execSliceEnd (part : Nat) (s : State) : Out :=
  let p := s.part part
  .next (match p.slice with
    | some (len, start) =>
      if s.boundary && decide (start + len ≤ s.tick) && liveAll s part && p.switching.isNone && p.removal.isNone then
        if mayExchange s part && !duskWaits s part then
          stopPart (s.setPart part { p with switching := some { slot := s.slot }, slice := none }) part false
        else s.setPart part { p with slice := if p.sliceLen = 0 then none else some (p.sliceLen.toNat, s.tick) }
      else s
    | none => s)

/-- 50 µs in slots. -/
def graceSlots : Nat := 40000

/-- `SOFT_STOP_GRACE_EXPIRY`: what has not stopped is stopped hard (R227). -/
def execSoftStopGraceExpiry (part : Nat) (s : State) : Out :=
  .next (match (s.part part).switching with
    | some w => if w.slot + graceSlots ≤ s.slot then stopPart s part true else s
    | none => s)

/-- A thread has stopped. -/
def isStopped (t : Thread) : Bool :=
  match t.status with
  | .running | .waiting _ => false
  | _ => true

/-- Groups of a partition are stopped and settled (R227 steps 1 to 4): threads, flag increments, pending entries, blocks
at work. -/
def settledGroups (s : State) (p : Nat) (gs : List Nat) : Bool :=
  let stuck := stuckRecs s p
  ((gs.flatMap groupCores).all fun c =>
      isStopped (s.thread (2 * c)) && isStopped (s.thread (2 * c + 1))
        && ((s.core c).queues.all fun q => q.2.all fun e => e.status == .ready || entryStuck s stuck c e)
        && ((s.core c).matQ.all fun r => r.work.isEmpty)
        && (s.core c).copyQ.all fun r => r.status != .running || !midBlock r)
    && s.writes.all fun w => w.applied || w.lost ||
      (match w.op with
       | .flagInc g _ _ => !(tagPart w.tag == p && gs.contains g)
       | _ => true)

/-- The partition's live groups are. -/
def settled (s : State) (p : Nat) : Bool := settledGroups s p (liveGroups s p)

/-- Entries that a record of a core has reserved and not filled, each with its place and who had reserved it. -/
def pendingOf (c : Core) (rid : Nat) : List (Nat × Option Nat) :=
  c.queues.flatMap fun q => (q.2.filter (unfilled rid)).map fun e => (e.issue, e.taker)

/-- A core as it is saved: the array's tenure ends, a claim waits anew on its return (07 R150), a record's age as a waiter
is lost (R223), its TLB is not kept, and no pending entry is: a record that could not fill its own reserves them again on its return
(10 R197) (DESIGN CHOICE, log 90). -/
def savedCore (c : Core) : Core :=
  let young := fun (l : List Rec) => l.map fun r => { r with age := 0 }
  { c with lease := { claim := c.lease.claim, asker := c.lease.asker }, tlb := [],
           queues := (c.queues.map fun q => (q.1, q.2.filter fun e => e.status == .ready || e.filler.isNone)).filter fun q => !q.2.isEmpty,
           matQ := c.matQ.map fun r => { r with arrays := [] },
           copyQ := (young c.copyQ).map fun r => { r with gone := r.gone ++ pendingOf c r.id }, collQ := young c.collQ }

/-- The live context of a group. -/
def liveCtx (s : State) (p g : Nat) : Ctx :=
  { part := p, cores := (groupCores g).foldl (fun t c => tput {} t c (savedCore (s.core c))) [],
    threads := (groupCores g).foldl (fun t c =>
      tput {} (tput {} t (2 * c) (s.thread (2 * c))) (2 * c + 1) (s.thread (2 * c + 1))) [],
    flags := (s.group g).flags }

/-- A record that comes back with its context saved waits for one of its engine (R222). -/
def parkRec (r : Rec) : Rec := { r with parked := r.started && r.op != .note }

/-- The queued records of a core reserve their entries again as it comes back. -/
def reserveBack (s : State) (core : Nat) : State :=
  ((s.core core).copyQ.filter fun r => r.status == .queued).foldl (fun s r => (reserveAgain s core r).getD s) s

/-- A context becomes live in a group: WDOG.GRACE stays with the core (R229). -/
def putCtx (s : State) (g : Nat) (x : Ctx) : State :=
  let s1 := (groupCores g).foldl (fun s c =>
    let y := tget x.cores c {}
    let s2 := s.setCore c { y with wdog := { y.wdog with grace := (s.core c).wdog.grace }, lease := { y.lease with waitFrom := s.cycle },
                                   matQ := y.matQ.map fun r => { r with waitFrom := s.cycle },
                                   copyQ := y.copyQ.map parkRec, collQ := y.collQ.map parkRec }
    let s2 := reserveBack s2 c
    (s2.setThread (2 * c) (tget x.threads (2 * c) {})).setThread (2 * c + 1) (tget x.threads (2 * c + 1) {})) s
  s1.setGroup g { s1.group g with live := some x.part, flags := x.flags, lent := none }

/-- A group's live context and its shadow bank are exchanged. -/
def exchange (s : State) (p g : Nat) : State :=
  match (s.group g).shadow with
  | some x =>
    let old := liveCtx s p g
    let s1 := putCtx s g x
    s1.setGroup g { s1.group g with shadow := some old }
  | none => s

/-- A removal that waited for a switch begins (14 R288). -/
def dueRemoval (s : State) (p : Nat) : State :=
  if (s.part p).removeDue then removalStart (s.setPart p { s.part p with removeDue := false }) p else s

/-- `GANG_SWITCH`: once everything is settled; groups whose shadow bank is empty keep what they hold. -/
def execGangSwitch (part : Nat) (s : State) : Out :=
  .next (match (s.part part).switching with
    | some w =>
      if w.save || !settled s part then s
      else
        let s1 := (ownedGroups s part).foldl (fun s g => exchange s part g) s
        let ins := (List.range 16).filter fun q => q != 0 && q != part && !liveAll s q
        let s2 := s1.setPart part { s1.part part with switching := none, slice := none }
        dueRemoval (ins.foldl (fun s q =>
          if liveAll s q then s.setPart q { s.part q with resume := (s.part q).resume || (s.part q).isOpen, resumeFrom := s.slot + 1 } else s) s2) part
    | none => s)

/-- A stopped thread goes on. -/
def resumeThread (t : Thread) : Thread :=
  match t.status with
  | .stopped => { t with status := .running }
  | _ => t

/-- A thread resumes; one with a cause pending takes it at once, before the instruction there (14 R284). -/
def resumeAt (s : State) (tid : Nat) : State :=
  let t := s.thread tid
  match t.status with
  | .stopped =>
    let s1 := s.setThread tid (resumeThread t)
    if t.pend.isEmpty then s1 else takePend s1 tid
  | _ => s

/-- The threads of a partition's live cores resume. -/
def resumePart (s : State) (p : Nat) : State := (liveCores s p).foldl (fun s c => resumeAt (resumeAt s (2 * c)) (2 * c + 1)) s

/-- `PARTITION_RESUME`: at a boundary after the exchange or the `dawn` that lets it run, live on all its groups: the threads of an
open one resume; its slice starts, open or not (R227, R228; 15 R301). -/
def execPartitionResume (part : Nat) (s : State) : Out :=
  let p := s.part part
  let goes := p.resume && p.isOpen
  .next (if s.boundary && decide (p.resumeFrom ≤ s.slot) && liveAll s part && p.switching.isNone && p.removal.isNone && (goes || p.slice.isNone) then
      let s1 := if goes then resumePart (s.setPart part { p with resume := false, saved := false }) part else s
      s1.setPart part { s1.part part with slice := if p.sliceLen = 0 then none else some (p.sliceLen.toNat, s.tick) }
    else s)

/-- `ZERO_SLICE_EXCHANGE` (R228) (DEDUCED, log 45). -/
def execZeroSliceExchange (part : Nat) (s : State) : Out :=
  let p := s.part part
  .next (if s.boundary && p.zeroHeld && zeroDue s part && p.switching.isNone && p.removal.isNone && !duskWaits s part then
      s.setPart part { p with switching := some { slot := s.slot } }
    else s)

/-! ## Watchdog (R229, R230) -/

/-- LEFT one unit less; the cycle in which it reaches 0 is noted (R230). -/
def countDown (cycle : Nat) (w : Wdog) : Wdog :=
  { w with left := w.left - 1, zeroAt := if w.left = 1 then cycle else w.zeroAt }

/-- `WATCHDOG_UNIT_TICK`: 1,024 live ticks have passed. -/
def execWatchdogUnitTick (part launch : Nat) (s : State) : Out :=
  let p := s.part part
  .next (match p.launches.find? fun l => l.id == launch with
    | some l =>
      if l.status == .running && liveAll s part && decide (1024 ≤ l.ticks) then
        let s1 := s.setPart part { p with launches := p.launches.map fun x =>
          if x.id = launch then { x with ticks := x.ticks - 1024 } else x }
        l.cores.foldl (fun s c => s.setCore c { s.core c with wdog := countDown s.cycle (s.core c).wdog }) s1
      else s
    | none => s)

/-- The core runs a launch whose watchdog has reached 0 and stands there as the cycle of that ends: an `alive` that falls in it
counts first (R230). -/
def wdogAtZero (s : State) (core : Nat) : Bool :=
  (launchOf s core).isSome && (s.core core).wdog.left == 0 && decide ((s.core core).wdog.zeroAt < s.cycle)

/-- `WATCHDOG_EXPIRY`: FIRED, a notice, and the grace. -/
def execWatchdogExpiry (core : Nat) (s : State) : Out :=
  .next (if wdogAtZero s core && !(s.core core).wdog.fired then
      let s1 := writeNotice s core 0x38
      let c := s1.core core
      s1.setCore core { c with wdog := { c.wdog with fired := true, left := max 1 c.wdog.grace.toNat } }
    else s)

/-- `WATCHDOG_REMOVAL`: LEFT is 0 again with FIRED set; a gang switch in progress finishes first (14 R288). -/
def execWatchdogRemoval (core : Nat) (s : State) : Out :=
  let p := partOf s core
  let q := s.part p
  .next (if wdogAtZero s core && (s.core core).wdog.fired && q.removal.isNone then
      if q.switching.isSome then (if q.removeDue then s else s.setPart p { q with removeDue := true }) else removalStart s p
    else s)

/-- `REMOVAL_DRAIN_END`: 4,096 cycles of empty fetch have passed (14 R288). -/
def execRemovalDrainEnd (part : Nat) (s : State) : Out :=
  .next (match (s.part part).removal with
    | some r => if r.cycle + 4096 ≤ s.cycle then removalEnd s part else s
    | none => s)

end Sys2Proof.Machine
end

