-- ==== Sys2Proof/Machine/System.lean ====
section
/-! DEFINITION. System instructions (15 R298-R309; 13 R264-R268, R272, R274; 14 R288-R291, R306): major 0xD. -/

namespace Sys2Proof.Machine

open Sys2Proof

/-! ## Privilege, RESULT, order (R298-R300) -/

/-- A privileged instruction: causes 0x02 and 0x03, then nothing when disabled, then cause 0x08 outside partition 0 (DEDUCED, log 20). -/
def sysOp (s : State) (h : Hdr) (ops : List (Need × OpField)) (zeros : List Val) (f : List Val → State) : State :=
  effectGate s h 1 (if partOf s (coreOf s.cur) = 0 then none else some (wordTrap s.th 8)) (getOps s.th ops) zeros f

/-- Die of the current thread. -/
def curDie (s : State) : Nat := dieOf (coreOf s.cur)
/-- TARGET of its service core. -/
def target (s : State) : Word := (s.die (curDie s)).target
/-- RESULT of its service core set (R299). -/
def withResult (s : State) (r : Nat) : State :=
  let d := curDie s
  s.setDie d { s.die d with target := setResult (s.die d).target r }
/-- The instruction ends with a RESULT. -/
def endResult (s : State) (r : Nat) : State := finishIn (withResult s r) []
/-- The instruction ends with a status appended. -/
def endStatus (s : State) (n : Nat) : State := finishIn s [.s (BitVec.ofNat 64 n)]

/-- A service thread is at an instruction on the partition that has not completed. -/
def atControl (s : State) (p tid : Nat) : Bool :=
  match (s.thread tid).status with
  | .waiting (.control q) | .waiting (.dusk q) | .waiting (.halt q _) | .waiting (.ctxsave q) => q == p
  | _ => false

/-- The current thread takes its place in the order of R300, if it has none. -/
def joinControl (s : State) (p : Nat) : State :=
  let q := (s.part p).ctlQ.filter fun t => t == s.cur || atControl s p t
  s.setPart p { s.part p with ctlQ := if q.contains s.cur then q else q ++ [s.cur] }

/-- It has completed. -/
def leaveControl (s : State) (p : Nat) : State :=
  s.setPart p { s.part p with ctlQ := (s.part p).ctlQ.filter (· != s.cur) }

/-- An instruction on one partition's control state goes on when those before it have completed (R300) (DEDUCED, log 42). -/
def inControl (s : State) (p : Nat) (f : State → State) : State :=
  let s1 := joinControl s p
  if (s1.part p).ctlQ.head? = some s.cur then f s1 else park s1 (.control p)

/-! ## Opening, ending and sweeping (R301) -/

/-- `dawn`: the partition opens; what `ctxsave` stopped or `ctxrest` restored is to resume at the next boundary. -/
def dawnNow (s : State) (p : Nat) : State :=
  let q := s.part p
  if q.isOpen then s
  else { s.setPart p { q with isOpen := true, resume := q.resume || q.saved, resumeFrom := s.slot + 1 } with tenantRan := s.tenantRan || p != 0 }

def execDawn (h : Hdr) (x : FmtS) (s : State) : Out :=
  .next (sysOp s h [(.s, x.opa)] [] fun vs =>
    let p := (arg vs 0).word.toNat
    if 16 ≤ p then finishIn s []
    else inControl s p fun s => finishIn (leaveControl (dawnNow s p) p) [])

/-- Contexts of a partition in shadow banks. -/
def shadowsOf (s : State) (p : Nat) : List Ctx :=
  ((List.range 64).filterMap fun g => (s.group g).shadow).filter fun x => x.part == p

/-- A record of the partition still runs, or has been saved running in a shadow bank. -/
def anyRunning (s : State) (p : Nat) : Bool :=
  ((liveCores s p).map s.core ++ (shadowsOf s p).flatMap fun x => x.cores.map (·.2)).any fun c =>
    c.records.any fun r => r.status == .running

/-- Records that stopped at their counter after `dusk` are discarded with it, in shadow banks too (DEDUCED, log 41). -/
def dropHeld (s : State) (p : Nat) : State :=
  (List.range 64).foldl (fun s g => dropShadow s p g) ((liveCores s p).foldl (fun s c => stopCore s c true) s)

/-- Steps 5 and 6 of `dusk`, and its return: every checking point has installed the generation, and no record of p runs
(13 R265) (DEDUCED, log 41). -/
def duskWait (s : State) (p : Nat) : State :=
  if anyRunning s p || !(s.part p).behind.isEmpty then park s (.dusk p)
  else endStatus (leaveControl (duskEnd (dropHeld s p) p) p) 0

/-- DEDUCED, log 41. -/
def execDusk (h : Hdr) (x : FmtS) (s : State) : Out :=
  .next (sysOp s h [(.s, x.opa)] [.s 0] fun vs =>
    let p := (arg vs 0).word.toNat
    if p = 0 ∨ 16 ≤ p then endStatus s 2
    else
      match s.th.status with
      | .waiting (.dusk _) => duskWait s p
      | _ =>
        inControl s p fun s =>
          if (s.part p).groups = 0 then endStatus (leaveControl s p) 2
          else if duskRefused s p then endStatus (leaveControl s p) 1
          else duskWait (duskNow s p) p)

def execSweep (h : Hdr) (x : FmtS) (s : State) : Out :=
  .next (sysOp s h [(.s, x.opa)] [.s 0] fun vs =>
    let p := (arg vs 0).word.toNat
    if p = 0 ∨ 16 ≤ p then endStatus s 2
    else
      inControl s p fun s =>
        if sweeping s p then endStatus (leaveControl s p) 1
        else endStatus (leaveControl (startSweep s p (some (curDie s))) p) 0)

/-- The end of `halt`: RESULT 5 where the generation did not advance, though p owns a group (DEDUCED, log 42). -/
def haltWait (s : State) (p : Nat) (gen : BitVec 8) : State :=
  if (s.part p).removal.isSome then park s (.halt p gen)
  else endResult (leaveControl s p) (if (s.part p).gen = gen ∧ (s.part p).groups ≠ 0 then 5 else 0)

/-- A gang switch in progress brings p in: p stands in the shadow bank of a group that the live partition is leaving. -/
def bringsIn (s : State) (p g : Nat) : Bool :=
  ((s.group g).shadow.any fun x => x.part == p) &&
    ((s.group g).live.any fun q => (s.part q).switching.any fun w => !w.save)

/-- A switch of the partition, one that brings it in, or a removal of it in progress finishes first (14 R288; R304). -/
def busySwitch (s : State) (p : Nat) : Bool :=
  (s.part p).switching.isSome || (s.part p).removal.isSome || (List.range 64).any (bringsIn s p)

def execHalt (h : Hdr) (_x : FmtS) (s : State) : Out :=
  .next (sysOp s h [] [] fun _ =>
    match s.th.status with
    | .waiting (.halt p gen) => haltWait s p gen
    | _ =>
      let p := targetPart (target s)
      if p = 0 then endResult s 6
      else
        inControl s p fun s =>
          if busySwitch s p then park s (.control p) else haltWait (removalStart s p) p (s.part p).gen)

/-! ## Configuring a partition (R302, R303) -/

/-- A configuration block as a list of 256 bytes. -/
def blockNat (l : List Byte) (o n : Nat) : Nat := leNat ((l.drop o).take n)
/-- Base and length of the region of a die, in bytes. -/
def blockRegion (l : List Byte) (d : Nat) : Nat × Nat := (blockNat l (0x60 + 16 * d) 8, blockNat l (0x68 + 16 * d) 8)
/-- A 2 MiB region of a die lies in the block's range. -/
def inRegion (r : Nat × Nat) (k : Nat) : Bool := decide (r.1 / 0x200000 ≤ k) && decide (k < (r.1 + r.2) / 0x200000)

/-- A group whose live place and shadow bank are both held by other tenants. -/
def groupTaken (s : State) (p g : Nat) : Bool :=
  let other := fun (q : Option Nat) => q.any (· != p)
  other (s.group g).live && other ((s.group g).shadow.map (·.part))

/-- The block is refused (R302) (DEDUCED, log 47). -/
def blockBad (s : State) (p : Nat) (l : List Byte) : Bool :=
  let lo := blockNat l 0x30 4
  let hi := blockNat l 0x34 4
  let mib2 := 0x200000
  blockNat l 0x39 3 != 0 || blockNat l 0xC0 64 != 0
    || ((List.range 4).any fun i => decide (2 ^ 17 ≤ blockNat l (0xA0 + 8 * i) 8))
    || blockNat l 0x38 1 == 0 || decide (hi < lo) || lo % 64 != 0 || hi % 64 != 0
    || ((List.range 4).any fun d =>
      let r := blockRegion l d
      r.1 % mib2 != 0 || r.2 % mib2 != 0 || decide (2 ^ 40 ≤ r.1)
        || s.owners.any fun e => e.1 / 2 ^ 20 == d && e.2 != 0 && e.2 != p && inRegion r (e.1 % 2 ^ 20))
    || ((List.range 64).any fun g => (blockNat l 0 8).testBit g && groupTaken s p g)

/-- WEIGHT, SLOTS and INGRESS: the fields that an open partition takes. -/
def applyOpen (s : State) (p : Nat) (l : List Byte) : State :=
  let entry := fun i =>
    let n := blockNat l (0xA0 + 8 * i) 8
    ({ id := n % 2 ^ 16, valid := n / 2 ^ 16 % 2 == 1, tag := tagOf s p } : Ingress)
  s.setPart p { s.part p with weight := blockNat l 0x38 1, slots := BitVec.ofNat 256 (blockNat l 0x40 32),
                              ingress := (List.range 4).map entry }

/-- A core's storage that keeps its tags when its group changes hands, but for the elements of a tag (R302, R303). -/
def keptCore (core : Nat) (c : Core) (gone : Tag → Bool) : Core :=
  { wdog := { grace := c.wdog.grace }, near := emptyUnits (.near core) (fun _ => gone) c.near,
    tiles := emptyUnits (.tiles core) (fun _ => gone) c.tiles,
    patterns := c.patterns.filter fun x => !gone x.2.tag }

/-- A thread of the place that changes hands: off, with its window, slots, predicates and frames under their tags, but for those
of a tag. -/
def keptThread (t : Thread) (gone : Tag → Bool) : Thread :=
  let d := deadThread t
  let frames := t.frames.filter fun f => !gone f.tag
  if gone t.tag then { frames } else { d with frames }

/-- The live place of a group becomes another's: no thread runs there, and storage keeps its tags, but for the elements
that the newcomer must read as zeros. -/
def clearLive (s : State) (g : Nat) (live : Option Nat) (gone : Tag → Bool) : State :=
  let s1 := (groupCores g).foldl (fun s c =>
    let s2 := s.setCore c (keptCore c (s.core c) gone)
    (s2.setThread (2 * c) (keptThread (s2.thread (2 * c)) gone)).setThread (2 * c + 1) (keptThread (s2.thread (2 * c + 1)) gone)) s
  s1.setGroup g { s1.group g with live, flags := (s1.group g).flags.filter (fun f => !gone f.2.tag), lent := none }

/-- p holds a place in the group. -/
def holdsPlace (s : State) (p g : Nat) : Bool :=
  (s.group g).live == some p || ((s.group g).shadow.map (·.part)) == some p

/-- p leaves its place in a group. -/
def leaveGroup (s : State) (p g : Nat) : State :=
  if (s.group g).live = some p then clearLive s g none fun _ => false
  else if ((s.group g).shadow.map (·.part)) = some p then s.setGroup g { s.group g with shadow := none } else s

/-- p takes a place in a group, with an empty context. -/
def joinGroup (s : State) (p g : Nat) : State :=
  if holdsPlace s p g then s
  else if (s.group g).live.isNone then clearLive s g (some p) fun t => t == tagOf s p
  else s.setGroup g { s.group g with shadow := some { part := p } }

/-- The region-owner table after p's regions are those of the block. -/
def applyRegions (s : State) (p : Nat) (l : List Byte) : State :=
  let mine := (List.range 4).flatMap fun d =>
    ((List.range (2 ^ 19)).filter fun k => inRegion (blockRegion l d) k).map fun k => d * 2 ^ 20 + k
  let rest := s.owners.filter fun e => e.2 != p
  { s with owners := mine.foldl (fun t k => tput 0 t k p) rest }

/-- Every field: what a closed partition takes. -/
def applyClosed (s : State) (p : Nat) (l : List Byte) : State :=
  let gs := BitVec.ofNat 64 (blockNat l 0 8)
  let s1 := (List.range 64).foldl (fun s g => if gs.getLsbD g then joinGroup s p g else leaveGroup s p g) s
  let s2 := applyRegions (applyOpen s1 p l) p l
  s2.setPart p { s2.part p with
    groups := gs, lbase := blockNat l 0x08 8, tdt := blockNat l 0x10 8 % 2 ^ 48, trapbase := blockNat l 0x18 8,
    framebase := blockNat l 0x20 8, savebase := blockNat l 0x28 8, bkbase := blockNat l 0x30 4,
    bklim := blockNat l 0x34 4, repl := blockNat l 0x3C 4,
    regions := (List.range 4).foldl (fun t d => tput (0, 0) t d (blockRegion l d)) [] }

/-- A block that has been read is applied or refused. -/
def partApply (s : State) (p : Nat) (l : List Byte) : State :=
  if blockBad s p l then endResult (leaveControl s p) 1
  else if (s.part p).isOpen then endResult (leaveControl (applyOpen s p l) p) 2
  else endResult (leaveControl (applyClosed s p l) p) 0

/-- `part` reads its block with plain reads. -/
def execPart (h : Hdr) (x : FmtS) (s : State) : Out :=
  .next (sysOp s h [(.s, x.opa)] [] fun vs =>
    let p := (arg vs 0).word.toNat
    let a := (s.die (curDie s)).pcfg.toNat
    if p = 0 ∨ 16 ≤ p ∨ a % 256 ≠ 0 then endResult s 1
    else
      match flatPlace s s.cur a 256 256 .load with
      | .error t => raise s t
      | .ok pl =>
        inControl s p fun s =>
          match readLocs s s.cur (unitLocs pl 256) with
          | .error (.wait _) => park s (.control p)
          | .error (.cause c) => raise s (flatTrap c a)
          | .ok (ws, s1) => partApply s1 p (ws.flatMap fun w => leBytes 8 w))

/-! ## Saving and restoring contexts (R304) -/

/-- Bytes of an image. -/
def imageBytes : Nat := 0x500000

/-- The save area of `n` images is wholly owned by the partition. -/
def saveOwned (s : State) (p n : Nat) : Bool :=
  match flat0 (s.part p).savebase, flat0 ((s.part p).savebase + n * imageBytes - 1) with
  | some (d, a), some (e, b) => d == e && (List.range (n * imageBytes / 0x200000 + 2)).all fun k =>
      decide (b / 0x200000 < a / 0x200000 + k) || owns s p (.hbm d) (a + k * 0x200000)
  | _, _ => false

/-- The context of a group of p, live or shadow. -/
def ctxOf (s : State) (p g : Nat) : Ctx :=
  if (s.group g).live = some p then liveCtx s p g
  else match (s.group g).shadow with
    | some c => c
    | none => { part := p }

/-- The image of a group: its context, and the launches and arrivals of its cores. -/
def imageOf (s : State) (p g : Nat) : Image :=
  let cs := groupCores g
  { tag := tagOf s p, ctx := ctxOf s p g,
    launches := (s.part p).launches.filter fun l => l.status == .running && l.cores.any fun c => cs.contains c,
    arrivals := (s.part p).arrivals.filter fun a => cs.contains (coreOf a.tid) }

/-- The header: group count, place and serial number; its other bytes are zero (DESIGN CHOICE, log 46). -/
def imageHeader (n i serial : Nat) : List Byte := leBytes 8 n ++ leBytes 8 i ++ leBytes 16 serial ++ List.replicate 32 0

/-- One image is written under (p, G[p]) (DESIGN CHOICE, log 46). -/
def saveGroup (s : State) (p n i g : Nat) : State :=
  let serial := s.fresh
  let body := (List.range (imageBytes - 64)).map fun j => Config.imageByte (serial + j)
  let s1 := { s with images := tset s.images serial (imageOf s p g), fresh := serial + imageBytes }
  match flat0 ((s.part p).savebase + i * imageBytes) with
  | some (d, a) => storeCells s1 { tag := tagOf s p } (.hbm d) (cellsOf a (imageHeader n i serial ++ body))
  | none => s1

/-- Steps 3 and 4 of `ctxsave`. -/
def saveNow (s : State) (p : Nat) : State :=
  let gs := ownedGroups s p
  let s1 := gs.zipIdx.foldl (fun s g => saveGroup s p gs.length g.2 g.1) s
  let jobs := (s1.part p).launches.map (·.job)
  dueRemoval { s1.setPart p { s1.part p with switching := none, saved := true } with
    cuts := s1.cuts.filter fun c => !jobs.contains c.job } p

/-- `ctxsave` waits until p has stopped and settled. -/
def saveWait (s : State) (p : Nat) : State :=
  if settled s p then endStatus (leaveControl (saveNow s p) p) 0 else park s (.ctxsave p)

/-- Steps 1 and 2 of `ctxsave`. -/
def saveStart (s : State) (p : Nat) : State :=
  stopPart (s.setPart p { s.part p with isOpen := false, slice := none, resume := false,
                                        switching := some { slot := s.slot, save := true } }) p false

def execCtxsave (h : Hdr) (x : FmtS) (s : State) : Out :=
  .next (sysOp s h [(.s, x.opa)] [.s 0] fun vs =>
    let p := (arg vs 0).word.toNat
    if p = 0 ∨ 16 ≤ p then endStatus s 2
    else
      match s.th.status with
      | .waiting (.ctxsave _) => saveWait s p
      | _ =>
        inControl s p fun s =>
          if (s.part p).groups = 0 then endStatus (leaveControl s p) 2
          else if !saveOwned s p (ownedGroups s p).length then endStatus (leaveControl s p) 3
          else if busySwitch s p then park s (.control p)
          else saveWait (saveStart s p) p)

/-- The tag of saved state under a new tag. -/
def retag (old new : Tag) (t : Tag) : Tag := if t = old then new else t
/-- Restored storage is in canonical form. What this package wrote is; what it did not write is a free value. -/
def canonMem (m : Memory) : Memory := if m.wf then m else {}
def retagMem (old new : Tag) (m : Memory) : Memory :=
  canonMem { m with tags := m.tags.map fun e => (e.1, retag old new e.2) }
def retagCore (old new : Tag) (c : Core) : Core :=
  let recs := fun (l : List Rec) => l.map fun r => { r with tag := retag old new r.tag }
  { c with tiles := retagMem old new c.tiles, near := retagMem old new c.near,
           queues := c.queues.map fun q => (q.1, q.2.map fun e => { e with tag := retag old new e.tag }),
           patterns := c.patterns.map fun x => (x.1, { x.2 with tag := retag old new x.2.tag }),
           matQ := recs c.matQ, copyQ := recs c.copyQ, collQ := recs c.collQ }
def retagThread (old new : Tag) (t : Thread) : Thread :=
  { t with tag := retag old new t.tag, frames := t.frames.map fun f => { f with tag := retag old new f.tag } }
/-- A restored flag file, in canonical form likewise. -/
def retagFlags (old new : Tag) (t : Tab Flag) : Tab Flag :=
  (if tsorted t then t else []).map fun f => (f.1, { f.2 with tag := retag old new f.2.tag })
/-- A saved context of the partition under its current tag (14 R291 step 1) (DESIGN CHOICE, log 46). -/
def retagCtx (p : Nat) (old new : Tag) (x : Ctx) : Ctx :=
  { x with part := p, cores := x.cores.map fun c => (c.1, retagCore old new c.2),
           threads := x.threads.map fun t => (t.1, retagThread old new t.2),
           flags := retagFlags old new x.flags }

/-- What an image that this package did not write, or that has been changed, restores (DESIGN CHOICE, log 46). -/
opaque openImage : Nat → Image

/-- The image at an address of the save area, read under (p, G[p]): its group count and what it holds (DESIGN CHOICE, log 46). -/
def imageAt (s : State) (p a : Nat) : Nat × Image :=
  match flat0 a with
  | none => (0, openImage s.fresh)
  | some (d, x) =>
    let w : Who := { tag := tagOf s p }
    let serial := readNat s w (.hbm d) (x + 16) 16
    let same := (List.range (imageBytes - 64)).all fun j =>
      readByte s w (.hbm d) (x + 64 + j) == Config.imageByte (serial + j)
    (readNat s w (.hbm d) x 8,
      match tfind s.images serial with
      | some i => if same then i else openImage s.fresh
      | none => openImage s.fresh)

/-- Poisoned data of the image at an address of the save area, as its reader meets it (14 R292). -/
def imagePoison (s : State) (p a : Nat) : Option Poison :=
  (flat0 a).bind fun x => poisonIn s { tag := tagOf s p } (.hbm x.1) x.2 imageBytes

/-- The reads of the image at an address of the save area, as an access of a die (21 R336, R340). -/
def askImage (s : State) (p d a : Nat) : State :=
  match flat0 a with
  | none => s
  | some (home, x) =>
    let s1 := (List.range (imageBytes / 4096)).foldl (fun s i => touchFrame s d { store := .hbm home, addr := x + 4096 * i }) s
    askLines s1 { tag := tagOf s p } (.hbm home) x imageBytes

/-- A restored thread runs at `dawn`: one that would run is stopped until then. -/
def restThread (t : Thread) : Thread :=
  match t.status with
  | .running | .waiting _ => stopThread t
  | _ => t

/-- An image takes the place of p in a group: the live place if no partition is live there, or p is (DESIGN CHOICE, log 46). -/
def restGroup (s : State) (p g : Nat) (i : Image) : State :=
  let x := retagCtx p i.tag (tagOf s p) i.ctx
  let x1 := { x with threads := x.threads.map fun t => (t.1, restThread t.2) }
  let s1 :=
    if (s.group g).live = none ∨ (s.group g).live = some p then
      let s2 := putCtx s g x1
      if ((s2.group g).shadow.map (·.part)) = some p then s2.setGroup g { s2.group g with shadow := none } else s2
    else s.setGroup g { s.group g with shadow := some x1 }
  let q := s1.part p
  let newL := i.launches.filter fun l => !q.launches.any fun m => m.id == l.id
  s1.setPart p { q with launches := q.launches ++ newL,
                        nextLaunch := newL.foldl (fun n l => max n (l.id + 1)) q.nextLaunch,
                        arrivals := q.arrivals ++ i.arrivals.filter fun a => !q.arrivals.contains a }

/-- `ctxrest` reads the images, and acts once their headers have been looked at. -/
def restAll (s0 : State) (p : Nat) : State :=
  let gs := ownedGroups s0 p
  let base := (s0.part p).savebase
  let s := (List.range gs.length).foldl (fun s i => askImage s p (curDie s) (base + i * imageBytes)) s0
  let l := gs.zipIdx.map fun g => (g.1, imageAt s p (base + g.2 * imageBytes))
  let lost := (List.range gs.length).findSome? fun i =>
    (imagePoison s p (base + i * imageBytes)).map fun k => flatTrap (poisonCause k) (base + i * imageBytes)
  match lost with
  | some t => raise s t
  | none =>
  if l.any fun e => e.2.1 != gs.length then endStatus (leaveControl s p) 3
  else
    let s1 := l.foldl (fun s e => restGroup s p e.1 e.2.2) { s with fresh := s.fresh + 1 }
    endStatus (leaveControl (s1.setPart p { s1.part p with saved := true, slice := none }) p) 0

def execCtxrest (h : Hdr) (x : FmtS) (s : State) : Out :=
  .next (sysOp s h [(.s, x.opa)] [.s 0] fun vs =>
    let p := (arg vs 0).word.toNat
    if p = 0 ∨ 16 ≤ p then endStatus s 2
    else
      inControl s p fun s =>
        if (s.part p).groups = 0 then endStatus (leaveControl s p) 2
        else if (s.part p).isOpen then endStatus (leaveControl s p) 1
        else if busySwitch s p then park s (.control p)
        else restAll s p)

/-! ## Translation upkeep (R305) -/

/-- Translated blocks of a partition that meet a range of flat addresses leave every die's cache. -/
def dropBlocks (s : State) (p lo hi : Nat) : State :=
  { s with dies := s.dies.map fun d =>
      (d.1, { d.2 with tcache := d.2.tcache.filter fun b =>
        !(b.part == p && decide (b.addr < hi) && decide (lo < b.addr + 8 * b.words.length)) }) }

/-- Pages of a size code. -/
def sizePages (n : Nat) : Nat := if n = 0 then 1 else if n = 1 then 16 else 512

/-- Page ranges that `n` may name at a size: the page of that size that holds page `n`, and the `n`-th page of that
size; every page for size 3 (DEDUCED, log 48). -/
def pageRanges (n size : Nat) : List (Nat × Nat) :=
  let k := sizePages size
  if size = 3 then [(0, 2 ^ 64)] else [(n / k * k, n / k * k + k), (n * k, n * k + k)]

/-- An entry maps a page of the ranges (DEDUCED, log 48). -/
def tlbHit (l : List (Nat × Nat)) (e : TlbEntry) : Bool :=
  l.any fun r => decide (e.page < r.2) && decide (r.1 < e.page + e.pages)

/-- Blocks of the pages of the flat tensor: through each shard that maps pages in order, all blocks for any other. -/
def dropPages (s : State) (p : Nat) (l : List (Nat × Nat)) : State :=
  let d := liveDesc s p 0
  let shards := if p = 0 then [0] else (List.range (d.scnt + 1)).filterMap fun i =>
    let e := readShard s none d 0 i
    if shardOk s none d 0 e then some (if e.kind = 0 then e.lo.getD 0 0 else 2 ^ 64) else none
  shards.foldl (fun s lo => l.foldl (fun s r =>
    if lo = 2 ^ 64 then dropBlocks s p 0 (2 ^ 64) else dropBlocks s p (lo + r.1 * 4096) (lo + r.2 * 4096)) s) s

/-- The shootdown of `tlbi` (13 R272) (DEDUCED, log 48). -/
def shootDown (s : State) (p h n size : Nat) : State :=
  let d := liveDesc s p h
  let l := pageRanges n size
  let has := d.rank != 0 || (p == 0 && h == 0)
  if !has then s
  else
    let s1 := shootTlb (bumpShards s p h (d.scnt + 1)) p h (tlbHit l)
    if h = 0 then dropPages s1 p l else s1

/-- An instruction of the supervisor uses the descriptor of a handle of TARGET's partition, and of the flat tensor its shard map:
lost data in them is cause 0x19 (14 R292). -/
def tableLost (s : State) (p h : Nat) (f : Unit → State) : State :=
  let d := liveDesc s p h
  match descPoison s none p h <|> (if h = 0 then devPoison s none d.smap (64 * (d.scnt + 1)) else none) with
  | some l => raise s { tensorTrap 0x19 h [] with errAt := some l }
  | none => f ()

def execTlbi (h : Hdr) (x : FmtS) (s : State) : Out :=
  .next (sysOp s h [(.s, x.opa), (.s, x.opb)] [] fun vs =>
    let p := targetPart (target s)
    let k := (arg vs 0).word.toNat % 2 ^ 13
    tableLost s p k fun _ => endResult (shootDown s p k (arg vs 1).word.toNat (x.aux.toNat % 4)) 0)

def execTcinv (h : Hdr) (x : FmtS) (s : State) : Out :=
  .next (sysOp s h [(.s, x.opa), (.s, x.opb)] [] fun vs =>
    let a := (arg vs 0).word.toNat
    let n := (arg vs 1).word.toNat
    endResult (if n = 0 then s else dropBlocks s (targetPart (target s)) a (min (a + n) (2 ^ 48))) 0)

/-- Every core that runs a launch of the partition holds the current version of a handle (13 R274) (DEDUCED, log 50). -/
def versionSeen (s : State) (p h : Nat) : Bool :=
  let v := (liveDesc s p h).version
  let ok := fun (c : Core) => c.launch.isNone || ((readDesc s c.view p h).version == v && !c.unseen.contains h)
  ((liveCores s p).all fun c => ok (s.core c))
    && s.groups.all fun g =>
      match g.2.shadow with
      | some x => x.part != p || x.cores.all fun c => ok c.2
      | none => true

def execTdsync (h : Hdr) (x : FmtS) (s : State) : Out :=
  .next (sysOp s h [(.s, x.opa)] [.s 0] fun vs =>
    let p := targetPart (target s)
    let k := (arg vs 0).word.toNat % 2 ^ 13
    let d := liveDesc s p k
    tableLost s p k fun _ =>
    if d.rank = 0 then endStatus s 0
    else if versionSeen s p k then
      endStatus { s with replicas := s.replicas.filter fun r =>
        !(r.part == p && r.handle == k && r.version != d.version) } 0
    else endStatus s 1)

/-! ## Answering traps (R306) -/

/-- A thread of a partition that is live on all its groups runs; one of a partition that is stopped, or has still to
resume, stays stopped (11 R228) (DEDUCED, log 44). -/
def goesOn (s : State) (core : Nat) : Status :=
  let p := s.part (partOf s core)
  if p.switching.isSome || p.saved || p.resume || !liveAll s (partOf s core) || cutStops s core then .stopped else .running

/-- The thread after `tret`: causes 0x30 and 0x31 continue at the next word (14 R283) (DEDUCED, log 44). -/
def tretThread (t : Thread) (st : Status) (step : Bool) : Thread :=
  { t with status := st, stepMode := if step then .armed else .none, cont := false, ansRec := none,
           pc := if t.cont then t.pc + 8 else t.pc, entered := t.entered && !t.cont, atEntry := t.atEntry && !t.cont }

/-- The record whose cause is answered goes on from its counter (12 R247). -/
def releaseRec (s : State) (core : Nat) (rid : Option Nat) : State :=
  match rid with
  | some k => mapRec s core k fun r =>
      if r.status = .held then { r with status := if r.started then .running else .queued, waitFrom := s.cycle } else r
  | none => s

/-- A thread that goes on takes a pending cause at once, before the instruction there (14 R284); an access thread, once its
queue loads are settled. -/
def pendFirst (s : State) (tid : Nat) : State :=
  let t := s.thread tid
  if t.status = .running ∧ !t.pend.isEmpty ∧ (isExe tid ∨ !loadsPending s (coreOf tid)) then takePend s tid else s

/-- `tret` once CONTROL has been read (DEDUCED, log 44). -/
def tretNow (s : State) (tid control : Nat) : State :=
  let core := coreOf tid
  if 1 < control then endResult s 3
  else
    let t := s.thread tid
    pendFirst (endResult (releaseRec (s.setThread tid (tretThread t (goesOn s core) (control == 1))) core t.ansRec) 0) tid

def execTret (h : Hdr) (_x : FmtS) (s : State) : Out :=
  .next (sysOp s h [] [] fun _ =>
    let core := targetCoreOf (curDie s) (target s)
    let tid := 2 * core + targetThr (target s)
    if (s.thread tid).status ≠ .trapped then endResult s 3
    else
      match flat0 (trapAddr s core (tid % 2) + 0x58) with
      | none => tretNow s tid 0
      | some (d, a) =>
        match readLocs s s.cur (unitLocs { store := .hbm d, addr := a } 8) with
        | .error (.wait w) => park s w
        | .error (.cause c) => raise s (flatTrap c (d * 2 ^ 40 + a))
        | .ok (ws, s1) => tretNow s1 tid (ws.headD 0))

/-- `idle`: a kept notice ends it. -/
def execIdle (h : Hdr) (_x : FmtS) (s : State) : Out :=
  .next (sysOp s h [] [] fun _ =>
    let d := curDie s
    match (s.die d).notices with
    | [] => park s .idle
    | _ :: l => finishIn (s.setDie d { s.die d with notices := l }) [])

/-! ## Slot tables (R307, 21 R331) -/

/-- An entry that `slotld` refuses: reserved bits, an input of 12 to 15 whatever V is, or the endpoint fed by itself: SEL11 names
an input where its V is 1 (DESIGN CHOICE, log 91). -/
def slotBad (w : Word) : Bool :=
  (w.extractLsb' 60 4) != 0 || ((List.range 12).any fun o => decide (12 ≤ (w.extractLsb' (5 * o) 4).toNat))
    || (w.getLsbD 59 && (w.extractLsb' 55 4) == 11)

/-- The slot belongs to the partition; partition 0 may write every slot. -/
def ownsSlot (s : State) (p k : Nat) : Bool := p == 0 || (s.part p).slots.getLsbD k

/-- The locations of the entries of an image. -/
def imagePlaces (s : State) (a n : Nat) : Except Trap (List (List Loc)) :=
  allOf ((List.range n).map fun i => flatLocs s s.cur (a + 8 * i) 8 (if i = 0 then 64 else 8) .load)

/-- The entries, from the values of their locations. -/
def joinEach : List (List Loc) → List Nat → List Word
  | [], _ => []
  | l :: ls, vs => BitVec.ofNat 64 (joinVals l (vs.take l.length)) :: joinEach ls (vs.drop l.length)

/-- The walks of an image's pages. -/
def askEntries (s : State) (a n : Nat) : State :=
  ((List.range n).filter fun i => i == 0 || (a + 8 * i) % 4096 == 0).foldl (fun s i => askFlat s s.cur (a + 8 * i)) s

/-- `slotld`. Of several causes the first of R284 is taken: an entry that is refused, 0x01, then a slot of another partition, 0x11, then
poisoned data (14 R284; 10 R180). -/
def execSlotld (h : Hdr) (x : FmtS) (s : State) : Out :=
  .next (effectOp s h (getOps s.th [(.s, x.opa)]) [] fun vs =>
    let a := (arg vs 0).word.toNat
    let first := x.aux.toNat % 256
    let n := x.aux.toNat / 256 + 1
    match imagePlaces s a n with
    | .error t => raise s t
    | .ok ps =>
      let notOwn := ((List.range n).find? fun i => !ownsSlot s (partOf s (coreOf s.cur)) (first + i)).map fun i => flatTrap 0x11 (a + 8 * i)
      holdLoads s fun _ =>
        match readLocs s s.cur ps.flatten with
        | .error (.wait w) => park s w
        | .error (.cause c) => raise s (notOwn.getD (flatTrap c a))
        | .ok (vals, s1) =>
          let ws := joinEach ps vals
          if ws.any slotBad then raise s (wordTrap s.th 1)
          else
            match notOwn with
            | some t => raise s t
            | none =>
              let s2 := askEntries s1 a n
              let d := curDie s2
              finishIn (s2.setDie d { s2.die d with slotPending := (s2.die d).slotPending ++ [(s2.slot, first, ws)] }) [])

/-! ## Migration (R308; 14 R290, R291) -/

/-- The dies that run a launch of a job. -/
def jobDies (s : State) (job : Nat) : List Nat :=
  (List.range 4).filter fun d => (List.range 16).any fun i => groupRuns s (16 * d + i) job

/-- `cutmark`: the marker goes to every die; it ends when each die of the job has reached step 4 (DESIGN CHOICE, log 51). -/
def execCutmark (h : Hdr) (x : FmtS) (s : State) : Out :=
  .next (sysOp s h [(.s, x.opa)] [] fun vs =>
    let j := (arg vs 0).word.toNat % 2 ^ 16
    match s.th.status with
    | .waiting (.cut _) =>
      (match s.cuts.find? fun c => c.job == j && c.tid == s.cur with
       | some c => if (jobDies s j).all fun d => c.settled.contains d then finishIn s [] else s
       | none => finishIn s [])
    | _ =>
      park { s with cuts := s.cuts.filter (fun c => !(c.job == j && c.tid == s.cur)) ++ [{ job := j, tid := s.cur, reached := [], counts := [] }],
                    out := s.out ++ [.marker j] } (.cut j))

/-- The leaf of a page whether its V is set or not: level, address and entry (13 R271). -/
def pullLeaf (s : State) (d root page : Nat) : Option (Nat × Nat × Pte) :=
  if 2 ^ 27 ≤ page then none
  else
    let e1 := readPte s d (root + 8 * (page / 2 ^ 18))
    if !e1.v || !e1.ok || e1.leaf then none
    else
      let a2 := e1.frame + 8 * (page / 512 % 512)
      let e2 := readPte s d a2
      if e2.leaf then some (2, a2, e2)
      else if !e2.v || !e2.ok then none
      else
        let a3 := e2.frame + 8 * (page % 512)
        let e3 := readPte s d a3
        if e3.leaf then some (3, a3, e3) else none

/-- First frame address and bytes of the page of a leaf. -/
def leafPage (lvl : Nat) (e : Pte) : Nat × Nat :=
  if lvl = 2 then (e.frame, 0x200000) else if e.size = 1 then (e.frame / 0x10000 * 0x10000, 0x10000) else (e.frame, 4096)

/-- V is set in the entry, and in the sixteen of a 64 KiB page. -/
def setV (s : State) (d lvl a : Nat) (e : Pte) : State :=
  let one := fun (s : State) (x : Nat) => devWrite s (d * 2 ^ 40 + x) (leBytes 8 (readPte s d x).bits.succ)
  if lvl = 3 ∧ e.size = 1 then
    let b := a / 128 * 128
    (List.range 16).foldl (fun s i => if (readPte s d (b + 8 * i)).v then s else one s (b + 8 * i)) s
  else one s a

/-- Lines of the frame poisoned by source loss under the partition's tag, in one record of the log (14 R293, R294); those it
does not own are logged each (DESIGN CHOICE, log 34). -/
def poisonPage (s : State) (p d a n : Nat) : State :=
  let us := (List.range (n / 64)).map (a / 64 + ·)
  let mine := us.filter fun u => owns s p (.hbm d) (64 * u)
  let s1 := us.foldl (fun s u =>
    if owns s p (.hbm d) (64 * u) then
      let m := ((s.die d).hbm.zeroRange (64 * u) 64).setTag u (tagOf s p)
      setMem s (.hbm d) (m.setPoison u (some .source))
    else logErr s d 5 0 (tagOf s p &&& 0xF00) (64 * u)) s
  match mine with
  | [] => s1
  | u :: l => logErrs s1 d 2 0 (tagOf s p) (64 * u) l.length

/-- The page is fetched from the source package, or mapped as lost (DESIGN CHOICE, log 49). -/
def pullPage (s : State) (p d lvl a : Nat) (e : Pte) : State :=
  let r := leafPage lvl e
  let lost := Config.sourceLost s.fresh
  let bytes := (List.range r.2).map fun i => Config.extByte (s.fresh + i)
  let s1 := if lost then poisonPage s p d r.1 r.2 else storeCells s { tag := tagOf s p } (.hbm d) (cellsOf r.1 bytes)
  endStatus (withResult (setV { s1 with fresh := s.fresh + r.2 } d lvl a e) 0) (if lost then 1 else 0)

/-- The die and location of the first poisoned structure that finds a page of the flat tensor (14 R292). -/
def pullPoison (s : State) (p : Nat) (d : Desc) (c : List Nat) : Option (Nat × Nat) :=
  devPoison s none (s.part p).tdt 64 <|> shardPoison s none d 0 c (d.scnt + 1) 0 <|>
    (findShard s none d 0 c (d.scnt + 1) 0).bind fun e =>
      if shardLocal s e then walkPoison s (shardDie e c) e.root (pageOf d e c).1 else none

/-- `pull`. Its status is appended, and RESULT is 0 whatever the status: R308 gives RESULT no code (DESIGN CHOICE, log 49 and 92). -/
def execPull (h : Hdr) (x : FmtS) (s : State) : Out :=
  .next (sysOp s h [(.s, x.opa)] [.s 0] fun vs =>
    let p := targetPart (target s)
    let c := [(arg vs 0).word.toNat, 0, 0, 0]
    let d := liveDesc s p 0
    let none_ := endStatus (withResult s 0) 3
    let a := (arg vs 0).word.toNat
    if p = 0 ∨ (s.part p).migsrc = 0xFFFF then none_
    else if (pullPoison s p d c).isSome then raise s { flatTrap 0x19 a with errAt := pullPoison s p d c }
    else if !coordsOk d c then none_
    else
      match findShard s none d 0 c (d.scnt + 1) 0 with
      | none => none_
      | some e =>
        if !shardLocal s e then none_
        else
          match pullLeaf s (shardDie e c) e.root (pageOf d e c).1 with
          | none => none_
          | some (lvl, a, pte) =>
            if pte.v then endStatus (withResult s 0) 2
            else if pte.frame = 0 then none_
            else pullPage s p (shardDie e c) lvl a pte)

/-! ## Raw access (R309) -/

/-- `raw enter`: the thread does nothing more in the cycle, in which a lock on another die may still refuse it. -/
def execRawEnter (h : Hdr) (_x : FmtS) (s : State) : Out :=
  .next (sysOp s h [] [] fun _ =>
    if s.rawLocked then endResult s 4
    else
      let d := curDie s
      endResult { s.setDie d { s.die d with raw := true, rawAt := some (s.cycle, s.rawEntered) } with
                  rawEntered := true, lastSource := sourceRank (coreOf s.cur) false + 2 } 0)
def execRawLeave (h : Hdr) (_x : FmtS) (s : State) : Out :=
  .next (sysOp s h [] [] fun _ =>
    let d := curDie s
    endResult (s.setDie d { s.die d with raw := false }) 0)

/-- A die entered the mode in this cycle: whether any had before. -/
def rawNow (s : State) (x : Die) : Option Bool := x.rawAt.bind fun e => if e.1 = s.cycle then some e.2 else none

/-- A die as the lock leaves it: an entry of this cycle is refused, with RESULT 4. -/
def lockDie (s : State) (x : Die) : Die :=
  { x with raw := false, rawAt := none, target := if (rawNow s x).isSome then setResult x.target 4 else x.target }

/-- `raw lock`: an entry of another die in the same cycle changes nothing. -/
def execRawLock (h : Hdr) (_x : FmtS) (s : State) : Out :=
  .next (sysOp s h [] [] fun _ =>
    let off := (s.dies.map fun e => (e.1, lockDie s e.2)).filter fun e => e.2 != {}
    endResult { s with rawLocked := true, dies := off,
                       rawEntered := (s.dies.filterMap fun e => rawNow s e.2).foldl (· && ·) s.rawEntered } 0)

end Sys2Proof.Machine
end

