-- ==== Sys2Proof/Machine/Events.lean ====
section
/-! DEFINITION. Steps of the machine that no word names: memory traffic, waits, causes, sweeps (03 R43; 08 R157-R169;
10 R192-R208; 13 R267, R272; 14 R284-R296; 21 R330-R347). Each answers the same state where it cannot happen. -/

namespace Sys2Proof.Machine

open Sys2Proof

/-- What a thread's instruction does, done for another thread. -/
def asThread (s : State) (tid : Nat) (f : State → State) : State := { f { s with cur := tid } with cur := s.cur }

/-! ## Words and translations -/

/-- A word that is no instruction (04 R72). -/
def execNonInstructionWord (_w : Word) (s : State) : Out := .next (raise s (wordTrap s.th 1))

/-- A core of the die that runs for the partition. -/
def coreFor (s : State) (d p : Nat) : Option Nat :=
  if p = 0 then some (256 + d) else (List.range 64).map (64 * d + ·) |>.find? fun c => partOf s c == p

/-- `BLOCK_TRANSLATION`: the block is lowered from the words as they stand and stored under its key (03 R43, R44). -/
def execBlockTranslation (die part addr : Nat) (s : State) : Out :=
  .next (match coreFor s die part with
    | none => s
    | some c =>
      if addr % 8 ≠ 0 ∨ 4 ≤ die then s
      else match fetchBlock s c addr with
        | .ok (s1, _) => s1
        | .error _ => s)

/-- A walk of a core's die asks for the entries it reads at the owner's memory port (21 R336, R340). -/
def walkAsks (s : State) (core d : Nat) (tag : Tag) (l : List Nat) : State :=
  askPlaces s (dieOf core) { tag } (l.map fun a => { store := .hbm d, addr := a }) true

/-- A walk of the page of these coordinates meets poison: in a shard entry or a page-table entry (14 R292). -/
def fillPoisoned (s : State) (core : Nat) (d : Desc) (w : WalkReq) (c : List Nat) (e : Shard) : Bool :=
  (shardPoison s (s.core core).view d w.handle c (d.scnt + 1) 0).isSome
    || (walkPoison s (shardDie e c) e.root (pageOf d e c).1).isSome

/-- `PAGE_WALK_COMPLETE`: the fill of a walk, discarded if the page-table version has moved on, or the generation at its
memory port (13 R266, R272) (DESIGN CHOICE, log 60). -/
def execPageWalkComplete (core : Nat) (w : WalkReq) (s : State) : Out :=
  let p := partOf s core
  let d := coreDesc s core w.handle
  let c := [w.c0, w.c1, w.c2, w.c3]
  let view := (s.core core).view
  .next (if p = 0 ∨ !coordsOk d c then s
    else
      match findShard s view d w.handle c (d.scnt + 1) 0 with
      | none => s
      | some e =>
        let pg := (pageOf d e c).1
        let die := shardDie e c
        if !shardLocal s e || tagPart w.tag != p then s
        else
        let s0 := walkAsks s core die w.tag (walkReads s die e.root pg)
        if !tagCurrent s (.port (dieOf core)) w.tag || tget s.ptVersions (p * 2 ^ 21 + w.handle * 2 ^ 8 + e.idx) 0 != w.version
            || fillPoisoned s core d w c e then s0
        else
          match walk s die e.root pg with
          | none => s0
          | some l =>
            let t : TlbEntry := { handle := w.handle, tag := w.tag, version := d.version, shard := e.idx, page := l.page,
                                  pages := l.pages, die, frame := l.frame, r := l.r, w := l.w, x := l.x, pfset := l.pfset }
            if (s0.core core).tlb.contains t then s0 else s0.setCore core { s0.core core with tlb := (s0.core core).tlb ++ [t] })

/-! ## Queue entries (10 R183, R192, R195) -/

/-- The entry at a place of a queue. -/
def entryAt (s : State) (core q i : Nat) : Option Entry := (entriesOf s core q)[i]?
/-- It replaced. -/
def putEntry (s : State) (core q i : Nat) (e : Entry) : State := setQueue s core q ((entriesOf s core q).set i e)

/-- A queue load issued earlier has not been performed at one of these places (R156). -/
def olderAsked (s : State) (core issue : Nat) (ls : List Lane) : Bool :=
  (s.core core).queues.any fun q => q.2.any fun e =>
    decide (e.issue < issue) &&
      (match e.status with
       | .asked l => l.any fun a => ls.any fun b =>
           a.place.store == b.place.store && decide (a.place.addr < b.place.addr + (b.len + 7) / 8)
             && decide (b.place.addr < a.place.addr + (a.len + 7) / 8)
       | _ => false)

/-- The lanes of a reply read one after another: their values, the first poison met, and the state; `none` while a lane
must wait. -/
def replyLanes (tid : Nat) (w : Who) : List Lane → State → Option (List Nat × Option Poison × State)
  | [], s => some ([], none, s)
  | l :: ls, s =>
    let n := (l.len + 7) / 8
    let st := l.place.store
    match readPath s tid st l.place.addr n (nibMask l.place.nib) with
    | .wait _ => none
    | path =>
      let k := if path = .home then poisonIn s w st l.place.addr n else none
      let v := locValue (l.place, l.len) (readAlong s w path st l.place.addr n)
      let d := dieOf (coreOf tid)
      let s0 := touchFrame (useFresh s w st l.place.addr n) d l.place
      let s1 := observe s0 d (homeOf s0 st l.place.addr)
      match replyLanes tid w ls s1 with
      | none => none
      | some (vs, k', s2) => some (v :: vs, k <|> k', s2)

/-- `READ_REPLY`: a queue load is performed; a reply under an ended generation brings zeros (13 R263, R266) (DEDUCED, log 13). -/
def execReadReply (core q i : Nat) (s : State) : Out :=
  .next (match entryAt s core q i with
    | none => s
    | some e =>
      match e.status with
      | .asked ls =>
        let tid := 2 * core
        let w : Who := { whoOf s tid with tag := e.tag }
        if e.filler.isSome || olderAsked s core e.issue ls then s
        else
          match replyLanes tid w ls s with
          | none => s
          | some (vs, k, s1) =>
            putEntry (askPorts s1 tid w (ls.map fun l => (l.place, l.len))) core q i { e with status := .replied, data := fillLanes ls vs, poison := k }
      | _ => s)

/-- An entry stays when the access thread's entries from one on are discarded. -/
def entryStays (issue : Nat) (e : Entry) : Bool := e.filler.isSome || decide (e.issue < issue)

/-- Entries of the access thread from one on leave every queue; the records that had reserved them are owed the next ones
pushed, in the same order (R195; 12 R251) (DEDUCED, log 31). -/
def discardFrom (s : State) (core issue : Nat) : State :=
  let c := s.core core
  s.setCore core { c with
    queues := c.queues.foldl (fun t q => tput [] t q.1 (q.2.filter (entryStays issue))) [],
    owed := c.queues.foldl (fun t q =>
      tput [] t q.1 ((q.2.filter fun e => !entryStays issue e).filterMap (·.taker) ++ tget t q.1 [])) c.owed }

/-- The access thread back at a queue load that met a cause: what it counts beyond its program stays as it is. One that was
stopped, or done while its partition is being stopped, takes its cause on resumption (R197; 14 R285). -/
def restoreThread (now ckpt : Thread) (t : Trap) (goes : Status) : Thread :=
  { ckpt with status := if now.status = .stopped ∨ (now.status = .done ∧ goes = .stopped) then .stopped else .running,
              seq := now.seq, trapinfo := now.trapinfo,
              pend := t :: now.pend, soft := now.soft, hard := now.hard, lostWrites := now.lostWrites, syncs := now.syncs }

/-- The cause that a returned entry meets: that of its translation, or its data's poison; none under an ended generation. -/
def entryCause (s : State) (core : Nat) (e : Entry) : Option Trap :=
  if !tagCurrent s (.queue core) e.tag then none
  else e.fault <|> e.poison.map fun k => { e.trap with cause := poisonCause k }

/-- `QUEUE_ENTRY_READY`: data without a cause makes the entry ready; a cause is raised at its queue load, once those issued
earlier have settled (R195). -/
def execQueueEntryReady (core q i : Nat) (s : State) : Out :=
  .next (match entryAt s core q i with
    | none => s
    | some e =>
      if e.status != .replied then s
      else
        match entryCause s core e, e.ckpt with
        | some c, some t =>
          if !settledBefore s core e.issue then s
          else
            let s1 := discardFrom s core e.issue
            s1.setThread (2 * core) (restoreThread (s1.thread (2 * core)) t c (goesOn s core))
        | _, _ => putEntry s core q i { e with status := .ready, ckpt := none, readied := s.cycle + 1 })

/-! ## Writes (08 R157-R160, R168, R169) -/

/-- A write of a die, by its number. -/
def findWrite (s : State) (src seq : Nat) : Option Write := s.writes.find? fun w => w.src == src && w.seq == seq
def mapWrite (s : State) (src seq : Nat) (f : Write → Write) : State :=
  { s with writes := s.writes.map fun w => if w.src = src ∧ w.seq = seq then f w else w }
def dropWrite (s : State) (src seq : Nat) : State :=
  { s with writes := s.writes.filter fun w => !(w.src == src && w.seq == seq) }

/-- `WRITE_APPLY_AT_HOME`: the oldest write of a die that is on its way is applied, once its clock allows (R160); it is
judged now (13 R263) (DESIGN CHOICE, log 14). -/
def execWriteApplyAtHome (src : Nat) (s : State) : Out :=
  .next (match (unapplied s src).head? with
    | none => s
    | some w =>
      let who : Who := { tag := w.tag, raw := w.raw, piece := w.piece, store := storeNo src w.seq w.piece, stale := w.stale, eng := w.eng }
      if clockMet s (opHome s w.op) src w.seq w.clock then
        mapWrite (applyAtHome s who src w.op) src w.seq fun x => { x with applied := true }
      else s)

/-- `EARLY_EXPOSURE`: every write that happens before it is visible to the die's agents (R157, R158). -/
def execEarlyExposure (die seq : Nat) (s : State) : Out :=
  .next (match findWrite s die seq with
    | none => s
    | some w =>
      let mine := (unapplied s die).all fun x => decide (w.seq ≤ x.seq) || x.exposed
      let rest := (List.range 4).all fun j => j == die || decide (tget w.clock j 0 ≤ tget (knownAt s die) j 0)
      if !w.mca && !w.applied && !w.lost && opHome s w.op != die && mine && rest then
        mapWrite s die seq fun x => { x with exposed := true }
      else s)

/-- The first element that meets a test, and the list without it. -/
def takeFirst {α : Type} (p : α → Bool) : List α → Option (α × List α)
  | [] => none
  | x :: l => if p x then some (x, l) else (takeFirst p l).map fun r => (r.1, x :: r.2)

/-- `REMOTE_ATOMIC_AT_HOME`: the atomic a thread waits for is performed (10 R199; 08 R159) (DEDUCED, log 16); first one that
the thread's tenancy has left on its way (13 R266). -/
def execRemoteAtomicAtHome (tid : Nat) (s : State) : Out :=
  .next (match takeFirst (fun (a : Nat × AmoReq) => a.1 == tid) s.lateAmos with
    | some (a, l) => if amoReady s tid a.2 then lateAmo { s with lateAmos := l } tid a.2 else s
    | none =>
      match (s.thread tid).status with
      | .waiting (.amo r) =>
        if !amoReady s tid r then s
        else
          match amoPerform s tid r with
          | .error k => takeCause s tid { r.trap with cause := k }
          | .ok (old, fl, s1) => s1.setThread tid { s1.thread tid with status := .waiting (.amoDone old fl) }
      | _ => s)

/-- `WRITE_ACK`: the acknowledgement of an applied write. -/
def execWriteAck (src seq : Nat) (s : State) : Out :=
  .next (match findWrite s src seq with
    | some w => if w.applied then dropWrite s src seq else s
    | none => s)

/-- The thread waits on the write (R158). -/
def waitsOn (t : Thread) (w : Write) : Bool :=
  match t.status with
  | .waiting (.applied l) => l.contains w.seq
  | _ => false

/-- A thread that did not wait on a lost write learns of it at its next covering order; one that waits in a shadow bank takes
the cause once it is back (R169) (DESIGN CHOICE, log 17). -/
def noteLost (t : Thread) (w : Write) : Thread :=
  if t.status = .off then t
  else if waitsOn t w then { t with pend := t.pend ++ [w.trap] }
  else { t with lostWrites := t.lostWrites ++ [w.trap] }

/-- A lost write is reported to the thread that issued it, in its partition's context, live or in the shadow bank: at once if it
waits on the write, though after the queue loads before it (R169; 10 R195; 14 R279) (DESIGN CHOICE, log 17). -/
def reportLost (s : State) (w : Write) : State :=
  let core := coreOf w.tid
  let g := groupOf core
  let p := tagPart w.tag
  if !(w.raw || tagCurrent s (.core core) w.tag) then s
  else if partOf s core = p then
    if !waitsOn (s.thread w.tid) w then s.setThread w.tid (noteLost (s.thread w.tid) w)
    else if !isExe w.tid && loadsPending s core then addPend s w.tid w.trap
    else takeCause s w.tid w.trap
  else
    match (s.group g).shadow with
    | some x =>
      if x.part = p then
        s.setGroup g { s.group g with
          shadow := some { x with threads := tput {} x.threads w.tid (noteLost (tget x.threads w.tid {}) w) } }
      else s
    | none => s

/-- A write that no path has acknowledged is logged and reported (14 R294) (DESIGN CHOICE, log 17). -/
def loseWrite (s : State) (w : Write) : State := reportLost (logErr s w.src 4 10 w.tag w.trap.info) w

/-- `ACK_TIMEOUT`: after 64 ticks the write is tried on another path; after three of those it is lost (R169). A write that
is lost before its home applied it stands in the count as applied, without effect (DESIGN CHOICE, log 17). -/
def execAckTimeout (src seq : Nat) (s : State) : Out :=
  .next (match findWrite s src seq with
    | none => s
    | some w =>
      if s.tick < w.tick + 64 then s
      else if w.tries < 3 then mapWrite s src seq fun x => { x with tries := x.tries + 1, tick := s.tick }
      else if w.applied then loseWrite (dropWrite s src seq) w
      else if tget s.applied src 0 + 1 = seq then loseWrite (dropWrite (noteApplied s src w.home) src seq) w
      else s)

/-- `CLOCK_CHANNEL_EXCHANGE`: every die learns what every die's writes have had applied (R160). -/
def execClockChannelExchange (s : State) : Out :=
  .next ((List.range 4).foldl (fun s d => s.setDie d { s.die d with known := clockMax (s.die d).known s.applied }) s)

/-! ## Atomics of a page (21 R336) -/

/-- The key of a frame. -/
def frameKey (die frame : Nat) : Nat := die * 2 ^ 28 + frame
/-- `ATOMIC_PAGE_MIGRATE`: a page whose count has reached 64 moves once it may (DESIGN CHOICE, log 18). -/
def execAtomicPageMigrate (die frame : Nat) (s : State) : Out := .next (migratePage s die (frameKey die frame))

/-- A place lies in a frame. -/
def inFrame (die frame : Nat) (p : Place) : Bool := p.store == .hbm die && p.addr / 4096 == frame

/-- An access of a die to a frame is on its way: a write, an atomic, or the request of a queue load. -/
def frameWanted (s : State) (die frame byDie : Nat) : Bool :=
  ((unapplied s byDie).any fun w =>
      match w.op with
      | .bytes st cells => cells.any fun c => inFrame die frame { store := st, addr := c.addr }
      | _ => false)
    || (s.threads.any fun t => dieOf (coreOf t.1) == byDie &&
      (match t.2.status with
       | .waiting (.amo r) => inFrame die frame r.place
       | _ => false))
    || s.cores.any fun c => dieOf c.1 == byDie && c.2.queues.any fun q => q.2.any fun e =>
      match e.status with
      | .asked ls => ls.any fun l => inFrame die frame l.place
      | _ => false

/-- `ATOMIC_PAGE_RETURN`: an access of another die than the owner, at least 64 ticks after the move, returns the page. -/
def execAtomicPageReturn (die frame byDie : Nat) (s : State) : Out :=
  .next (if die < 4 ∧ byDie < 4 ∧ frameWanted s die frame byDie then
      touchFrame s byDie { store := .hbm die, addr := frame * 4096 }
    else s)

/-- `BASE_DIE_REQUEST`: the oldest request of lane `lane % 64` of stack `lane / 64` is served and counted, and its tag is free
(21 R340-R342). -/
def execBaseDieRequest (die lane : Nat) (s : State) : Out :=
  .next (match takeFirst (fun (r : PortReq) => 64 * r.stack + r.lane == lane) (s.die die).ports with
    | none => s
    | some (r, l) =>
      countStack (s.setDie die { s.die die with ports := l }) die (r.stack * Config.stackBytes) fun c =>
        if r.write then { c with wrreq := c.wrreq + 1, rmw := c.rmw + (if r.rmw then 1 else 0) } else { c with rdreq := c.rdreq + 1 })

/-! ## Waits, barriers, seals (10 R185, R202, R208) -/

/-- The condition of a wait that the machine tests holds: the thread runs its instruction again (R208). Flags and events are tested as
a cycle ends. -/
def waitEnds (s : State) (tid : Nat) (w : Wait) : Bool :=
  let core := coreOf tid
  let free := fun q => freeEntries (entriesOf s core q)
  match w with
  | .qready q n => decide (n ≤ (free q).length) && ((free q).take n).all (entryOut s core)
  | .qspace q n => decide ((entriesOf s core q).length + n ≤ 16)
  | .qheld q n => decide (n ≤ (free q).length)
  | .recSpace m c l => hasRoom (s.core core) { m, c, l }
  | _ => false

/-- A thread whose wait has ended by its condition. -/
def endWait (s : State) (tid : Nat) : State :=
  match (s.thread tid).status with
  | .waiting w => if waitEnds s tid w then s.setThread tid { s.thread tid with status := .running } else s
  | _ => s

/-- `WAIT_CONDITION_MET`: the thread runs its instruction again, which now completes (DEDUCED, log 12). -/
def execWaitConditionMet (tid : Nat) (s : State) : Out := .next (endWait s tid)

/-- The thread stops, or takes a cause, at the boundary where it stands: its wait is taken as not begun (R205, R208; 12 R247). -/
def stopDue (t : Thread) : Bool := t.hard || (t.soft && softStopsHere t) || causeWaits t

/-- A wait on a flag or an event as a cycle ends: one whose condition holds is over, one that meets a cause runs again to raise it
(R206, R207) (DEDUCED, log 100). -/
def cycleWait (s : State) (tid ord scope home : Nat) (now : Except ReadStop Bool) : State :=
  if !mayRun s tid || stopDue (s.thread tid) then s
  else
    match now with
    | .ok true => asThread s tid fun s => waitEnd s ord scope home
    | .error (.cause _) => s.setThread tid { s.thread tid with status := .running }
    | _ => s

/-- A cycle ends for a thread. -/
def cycleEnd (s : State) (tid : Nat) : State :=
  match (s.thread tid).status with
  | .waiting (.flag g i v ord scope) => cycleWait s tid ord scope (g / 16) ((flagRead s tid g i).map (flagReached · v))
  | .waiting (.event i ord scope) => cycleWait s tid ord scope 0 (eventRead s tid i)
  | _ => s

/-- `SYNC_BARRIER_RELEASE`: every member that waits returns; `key` is one of its threads. -/
def execSyncBarrierRelease (part level key : Nat) (s : State) : Out :=
  let core := coreOf key
  let n := syncNumber (s.thread key) level
  .next (if partOf s core == part && waitsSync s level n key && barrierFull s core level n then syncRelease s core level n else s)

/-- `SEAL_COMPLETE`: the writes that passed translation have been applied and the release follows, or the release holds (08 R165). -/
def execSealComplete (tid : Nat) (s : State) : Out :=
  .next (match (s.thread tid).status with
    | .waiting (.seal h l) => if allApplied s l then asThread s tid fun s => sealWait s h l else s
    | .waiting (.sealRel h clock) => if orderMet s (dieOf (coreOf tid)) 5 clock then asThread s tid fun s => sealEnd s h clock else s
    | _ => s)

/-- `UNSEAL_COMPLETE` (08 R166). -/
def execUnsealComplete (tid : Nat) (s : State) : Out :=
  .next (match (s.thread tid).status with
    | .waiting (.unseal h) =>
      asThread s tid fun s =>
        if firstSeal s h && unsealReady s (partOf s (coreOf tid)) h then unsealDone s h else s
    | _ => s)

/-! ## Causes at a boundary (14 R284, R286) -/

/-- The thread stands where a pending cause may be taken: at a boundary, or done. -/
def mayTake (s : State) (tid : Nat) : Bool :=
  let t := s.thread tid
  (mayRun s tid || (t.status == .done && recMay s (coreOf tid) && (s.part (partOf s (coreOf tid))).switching.isNone)) && atBoundary t
    && (isExe tid || !loadsPending s (coreOf tid))

/-- `PENDING_CAUSE_TAKEN`: where the instruction there has no cause of its own (see `threadStep`). -/
def execPendingCauseTaken (tid : Nat) (s : State) : Out :=
  .next (if (s.thread tid).pend.isEmpty || !mayTake s tid then s else takePend s tid)

/-- `SINGLE_STEP`: cause 0x32 at the boundary after the stepped instruction. -/
def execSingleStep (tid : Nat) (s : State) : Out :=
  .next (if (s.thread tid).stepMode = .fired ∧ mayTake s tid = true ∧ (s.thread tid).pend = [] then takePend s tid else s)

/-! ## The sweep (13 R267) -/

/-- `SWEEP_AUTO_START` (DEDUCED, log 43). -/
def execSweepAutoStart (part : Nat) (s : State) : Out := .next (if part < 16 then autoSweep s part else s)

/-- A tag that a pass of the partition rewrites, by the generation that a checking point holds. -/
def oldTag (s : State) (pt : Point) (p : Nat) (t : Tag) : Bool := t != Config.emptyTag && tagPart t == p && !tagCurrent s pt t

/-- A storage array after a pass. -/
def sweepMem (s : State) (p : Nat) (st : Store) (m : Memory) : Memory := emptyUnits st (fun a t => oldTag s (stPoint st a) p t) m

/-- A core after a pass: tiles, near store, queue entries, patterns, translation fills. -/
def sweepCore (s : State) (p core : Nat) (c : Core) : Core :=
  let entry := fun (e : Entry) =>
    if oldTag s (.queue core) p e.tag then { e with data := 0, tag := Config.emptyTag, poison := none } else e
  { c with tiles := sweepMem s p (.tiles core) c.tiles, near := sweepMem s p (.near core) c.near,
           queues := c.queues.map fun q => (q.1, q.2.map entry),
           patterns := c.patterns.filter (fun x => !oldTag s (.core core) p x.2.tag),
           tlb := c.tlb.filter fun e => !oldTag s (.port (dieOf core)) p e.tag }

/-- A thread's window, slots, predicates, modulus slots and call frames after a pass. -/
def sweepThread (s : State) (p tid : Nat) (t : Thread) : Thread :=
  let old := oldTag s (.core (coreOf tid)) p
  let t1 := if old t.tag then
      { t with window := [], sslots := [], vslots := [], preds := [], mods := [], lost := [], tag := Config.emptyTag }
    else t
  { t1 with frames := t1.frames.map fun f => if old f.tag then { ret := 0, window := [] } else f }

/-- A flag file after a pass. -/
def sweepFlags (s : State) (p g : Nat) (l : Tab Flag) : Tab Flag := l.filter fun f => !oldTag s (.flags g) p f.2.tag

/-- A context in a group's shadow bank after a pass. -/
def sweepCtx (s : State) (p g : Nat) (x : Ctx) : Ctx :=
  { x with cores := x.cores.map fun c => (c.1, sweepCore s p c.1 c.2), flags := sweepFlags s p g x.flags,
           threads := x.threads.map fun t => (t.1, sweepThread s p t.1 t.2) }

/-- Lines of a die's HBM that a pass rewrites are counted (21 R342). -/
def countSwept (s : State) (p d : Nat) : State :=
  ((s.die d).hbm.tags.filter fun e => oldTag s (stPoint (.hbm d) (64 * e.1)) p e.2).foldl (fun s e =>
    countStack s d (64 * e.1) fun c => { c with swept := c.swept + 1 }) s

/-- Every element of the package visited (R267 step 2; 03 R45). -/
def sweepAll (s : State) (p : Nat) : State :=
  let s1 := (List.range 4).foldl (fun s d => countSwept s p d) s
  { s1 with
    dies := s1.dies.map fun d => (d.1, { d.2 with hbm := sweepMem s p (.hbm d.1) d.2.hbm, bank := sweepMem s p (.bank d.1) d.2.bank,
                                                  tcache := d.2.tcache.filter fun b => b.part != p || b.gen == (s.part p).gen.toNat }),
    cores := s1.cores.map fun c => (c.1, sweepCore s p c.1 c.2),
    threads := s1.threads.map fun t => (t.1, sweepThread s p t.1 t.2),
    groups := s1.groups.map fun g =>
      (g.1, { g.2 with flags := sweepFlags s p g.1 g.2.flags, shadow := g.2.shadow.map (sweepCtx s p g.1) }),
    parts := s1.parts.map fun q =>
      (q.1, { q.2 with events := q.2.events.filter fun e => !oldTag s .events p e.2.tag,
                       ingress := q.2.ingress.map fun e => if oldTag s (.hostNode e.id) p e.tag then { e with tag := Config.emptyTag } else e }) }

/-- `SWEEP_PASS_COMPLETE`: passes run one after another; each notifies die 0 and the die that asked (DEDUCED, log 43). -/
def execSweepPassComplete (part : Nat) (s : State) : Out :=
  .next (match s.sweeps with
    | [] => s
    | w :: rest =>
      if w.part ≠ part then s
      else
        let s1 := { sweepAll s part with sweeps := rest }
        let s2 := autoSweep (s1.setPart part { s1.part part with low := w.s }) part
        let s3 := notify s2 0 (.sweep part)
        match w.asked with
        | some d => if d = 0 then s3 else notify s3 d (.sweep part)
        | none => s3)

/-! ## Slot tables, routers, links (21 R330-R335; 14 R294) -/

/-- The input of output `o` in an entry, if a circuit feeds it (R331). -/
def selOf (e : Word) (o : Nat) : Option Nat :=
  if e.getLsbD (5 * o + 4) then some (e.extractLsb' (5 * o) 4).toNat else none

/-- The router input that an output of a die reaches inside the package (R330). -/
def linkTo (d o : Nat) : Option (Nat × Nat) :=
  if 8 ≤ o ∧ o ≤ 10 then
    let e := (d + (o - 7)) % 4
    some (e, 7 + (d + 4 - e) % 4)
  else none

/-- The entry by which a die's router carries, in a slot, traffic that entered in slot `start`: traffic since before the last
update completes by the table before it (15 R307). -/
def slotEntry (s : State) (d start slot : Nat) : Word :=
  tget (if start < (s.die d).slotSince then (s.die d).slotOld else (s.die d).slotTable) (slot % 256) 0

/-- Outputs that an input feeds in a slot. -/
def outsOf (s : State) (d i start slot : Nat) : List Nat :=
  (List.range 12).filter fun o => selOf (slotEntry s d start slot) o == some i

/-- Dies at whose endpoint the chain from an input ends within `n` hops; 4 where it leaves the package (R332). -/
def chainEnds (s : State) : Nat → Nat → Nat → Nat → Nat → List Nat
  | 0, _, _, _, _ => []
  | n + 1, d, i, start, slot =>
    (outsOf s d i start slot).flatMap fun o =>
      match linkTo d o with
      | some (e, j) => chainEnds s n e j start (slot + 1)
      | none => [if o = 11 then d else 4]

/-- A branch by an output is not broken: within `n` more hops it ends at an endpoint, or it leaves the package by a port in
use, beyond which its end is not seen (R331, R332; 14 R294) (DESIGN CHOICE, log 58). -/
def branchOk (s : State) : Nat → Nat → Nat → Nat → Nat → Bool
  | 0, _, o, _, _ => o == 11
  | n + 1, d, o, start, slot =>
    match linkTo d o with
    | some (e, j) => (outsOf s e j start (slot + 1)).any fun o' => branchOk s n e o' start (slot + 1)
    | none => o == 11 || !(s.die d).deadPorts.contains o

/-- Circuits that start at a die's endpoint (DESIGN CHOICE, log 58). -/
def circuitsOf (s : State) (d : Nat) : List (Nat × Nat) :=
  (List.range 256).flatMap fun slot => (chainEnds s 17 d 11 s.slot (s.slot + slot)).map fun e => ((s.slot + slot) % 256, e)

/-- Entries written in order. -/
def loadSlots (t : Tab Word) (x : Nat × List Word) : Tab Word :=
  x.2.zipIdx.foldl (fun t w => tput 0 t (x.1 + w.2) w.1) t

/-- Entries that a boundary makes take effect: those loaded before its slot (R307). -/
def slotsDue (s : State) (d : Nat) : List (Nat × Nat × List Word) := (s.die d).slotPending.filter fun x => decide (x.1 < s.slot)

/-- `SLOT_TABLE_UPDATE`: at a boundary the entries loaded take effect, and each die recomputes its circuits (R307, R332) (DESIGN CHOICE, log 58). -/
def execSlotTableUpdate (die : Nat) (s : State) : Out :=
  .next (if s.boundary && !(slotsDue s die).isEmpty then
      let d := s.die die
      let s1 := s.setDie die { d with slotTable := (slotsDue s die).foldl (fun t x => loadSlots t x.2) d.slotTable,
                                      slotOld := d.slotTable, slotSince := s.slot,
                                      slotPending := d.slotPending.filter fun x => !decide (x.1 < s.slot) }
      (List.range 4).foldl (fun s e => s.setDie e { s.die e with circuits := circuitsOf s1 e }) s1
    else s)

/-- An output's port is in use and it has sent no flit in this slot (R329; 14 R294). -/
def outFree (s : State) (d o : Nat) : Bool := !(s.die d).deadPorts.contains o && !(s.die d).outSlot.contains (o, s.slot)

/-- A flit at its destination endpoint: a write of an ended generation is dropped and counted; anything else enters, a read of
an ended generation to be answered with zeros (13 R266). -/
def toEndpoint (s : State) (d : Nat) (f : Flit) : State :=
  if f.write && !tagCurrent s (.ingress d 11) f.tag then countLate s (tagPart f.tag) else { s with out := s.out ++ [.flit d 11 f] }

/-- A flit leaves by an output: to the endpoint, to the fabric, or to the next router of the package, which it enters one
slot later (R330). -/
def sendFlit (s : State) (d o start : Nat) (f : Flit) : State :=
  let s1 := s.setDie d { s.die d with outSlot := (s.die d).outSlot.filter (fun x => x.1 != o) ++ [(o, s.slot)] }
  match linkTo d o with
  | some (e, j) => { s1 with transit := s1.transit ++ [{ die := e, port := j, slot := s.slot + 1, start, f }] }
  | none => if o = 11 then toEndpoint s1 d f else { s1 with out := s1.out ++ [.flit d o f] }

/-- The slot's circuits are those of the partition: its owner, or partition 0 where no tenant owns it (R331). -/
def slotCarries (s : State) (p k : Nat) : Bool :=
  if p = 0 then !((List.range 16).any fun q => q != 0 && (s.part q).slots.getLsbD k) else (s.part p).slots.getLsbD k

/-- Outputs in use that an input feeds in this slot, for traffic that entered in slot `start`, and whose branches are not
broken. -/
def fedOuts (s : State) (d port start : Nat) : List Nat :=
  (outsOf s d port start s.slot).filter fun o => branchOk s (16 - (s.slot - start)) d o start s.slot

/-- A circuit flit is carried: its partition owns the slot, and one from its die's endpoint has a circuit that starts there in
this slot (R331, R332) (DESIGN CHOICE, log 58). -/
def carried (s : State) (d port : Nat) (f : Flit) : Bool :=
  slotCarries s (tagPart f.tag) (s.slot % 256) && (port != 11 || (s.die d).circuits.any (fun c => c.1 == s.slot % 256))

/-- An input has taken a flit in this slot. -/
def takeSlot (s : State) (d port : Nat) : State :=
  s.setDie d { s.die d with inSlot := (s.die d).inSlot.filter (fun x => x.1 != port) ++ [(port, s.slot)] }

/-- A flit enters a router: a circuit flit leaves by every output its slot's entry feeds from this input; any other waits in
its class buffer (R330, R333, R335). -/
def flitIn (s : State) (d port start : Nat) (f : Flit) : State :=
  let s1 := takeSlot s d port
  match f.cls with
  | none => if carried s d port f then (fedOuts s d port start).foldl (fun s o => sendFlit s d o start f) s1 else s1
  | some _ => s1.setDie d { s1.die d with buffers := (s1.die d).buffers ++ [{ port, f }] }

/-- A slot table is due to change at the boundary at which the machine stands. -/
def slotsWait (s : State) : Bool := s.boundary && (List.range 4).any fun d => !(slotsDue s d).isEmpty

/-- `FLIT_ARRIVAL` at a fabric port or from the endpoint, one a slot; a circuit flit always has its outputs in its own slot,
so none comes after its outputs have sent another, nor before the slot tables of its slot hold (R307, R329, R333). A fabric port
drops and counts a write of a generation that has ended there (13 R262, R266). On-package links bring their flits themselves. -/
def execFlitArrival (die port : Nat) (f : Flit) (s : State) : Out :=
  .next (if 4 ≤ die ∨ (8 ≤ port ∧ port ≠ 11) ∨ (s.die die).deadPorts.contains port ∨ (s.die die).inSlot.contains (port, s.slot)
      ∨ (f.cls = none ∧ (slotsWait s || !(fedOuts s die port s.slot).all (outFree s die))) then s
    else if port < 8 ∧ f.write = true ∧ tagCurrent s (.ingress die port) f.tag = false then countLate (takeSlot s die port) (tagPart f.tag)
    else flitIn s die port s.slot f)

/-- Place of a class among equal ages (R335). -/
def classRank (c : Option MsgClass) : Nat :=
  match c with
  | some .reply => 0
  | some .forward => 1
  | some .request => 2
  | some .management => 3
  | none => 4

/-- Heads of the class buffers. -/
def headFlits : List Buffered → List (Nat × Option MsgClass) → List Buffered
  | [], _ => []
  | b :: l, seen =>
    if seen.contains (b.port, b.f.cls) then headFlits l seen else b :: headFlits l ((b.port, b.f.cls) :: seen)

/-- One flit goes before another: the older (11 R223), then by class, then by input. -/
def flitBefore (a b : Buffered) : Bool :=
  decide (b.age < a.age) || (a.age == b.age &&
    (decide (classRank a.f.cls < classRank b.f.cls) || (classRank a.f.cls == classRank b.f.cls && decide (a.port < b.port))))
def oldestFlit : List Buffered → Option Buffered
  | [] => none
  | b :: l => match oldestFlit l with
    | none => some b
    | some c => if flitBefore c b then some c else some b

/-- The head flit needs the output: its route goes by it, or by a fabric port out of use, for which any fabric port of the die
serves (14 R294) (DESIGN CHOICE, log 58). -/
def needsOut (s : State) (d out : Nat) (f : Flit) : Bool :=
  match f.route.head? with
  | none => false
  | some o => o == out || (decide (out < 8) && (s.die d).deadPorts.contains o)

/-- `OPEN_SLOT_GRANT`: an output that is open in this slot grants it to the oldest head flit that needs it (R333). -/
def execOpenSlotGrant (die out : Nat) (s : State) : Out :=
  let d := s.die die
  .next (if 4 ≤ die ∨ 12 ≤ out ∨ !outFree s die out then s
    else
      match oldestFlit ((headFlits d.buffers []).filter fun b => needsOut s die out b.f) with
      | none => s
      | some b => sendFlit (s.setDie die { d with buffers := d.buffers.erase b }) die out s.slot { b.f with route := b.f.route.drop 1 })

/-- `LINK_FLIT_RETRY`: the flit is sent again on its link; nothing else changes (14 R294) (DEDUCED, log 56). -/
def execLinkFlitRetry (_port : Nat) (s : State) : Out := .next s

/-- A fabric port of the package is taken out of use and logged (R294). -/
def losePort (s : State) (port : Nat) : State :=
  let d := port / 8
  if 32 ≤ port ∨ (s.die d).deadPorts.contains (port % 8) then s
  else logErr (s.setDie d { s.die d with deadPorts := (s.die d).deadPorts ++ [port % 8] }) d 4 10 Config.emptyTag port

/-- `PORT_LOST`. -/
def execPortLost (port : Nat) (s : State) : Out := .next (losePort s port)

/-- `LINK_RETRAINED`: back in use, and logged with kind 3. -/
def execLinkRetrained (port : Nat) (s : State) : Out :=
  let d := port / 8
  .next (if 32 ≤ port then s
    else logErr (s.setDie d { s.die d with deadPorts := (s.die d).deadPorts.filter (· != port % 8) }) d 3 10 Config.emptyTag port)

/-! ## Host packets and the event service (21 R337, R338) -/

/-- The ingress entry an id matches: partition, place and tag. -/
def ingressOf (s : State) (id : BitVec 16) : Option (Nat × Nat × Tag) :=
  (List.range 16).findSome? fun p =>
    ((s.part p).ingress.zipIdx.find? fun e => e.1.valid && e.1.id == id.toNat).map fun e => (p, e.2, e.1.tag)

/-- A message to a host node. -/
def reply (s : State) (m : OutMsg) : State := { s with out := s.out ++ [m] }

/-- A packet of no valid entry: an error reply, and a record in the log (DESIGN CHOICE, log 52). -/
def noIngress (s : State) (d : Nat) (id : BitVec 16) : State :=
  logErr (reply s (.error id.toNat)) d 5 10 Config.emptyTag id.toNat

/-- A host access under its entry's current tag, at a port of die `d` (DESIGN CHOICE, log 52). -/
def hostAccess (s : State) (d p id : Nat) (tag : Tag) (op : HostOp) : State :=
  let err := reply s (.error id)
  let w : Who := { tag }
  match op with
  | .read a n =>
    (match (flatPlaces s p a n .load).bind fun l => (readPlaces w l s).map fun r => (l, r) with
     | none => err
     | some (l, bs, s1) => reply (askPlaces s1 d w l true) (.data id bs))
  | .write a bs =>
    (match flatPlaces s p a bs.length .store with
     | none => err
     | some l => reply (storePlaces (askPlaces s d w l false) w (l.zip bs)) (.ack id))
  | .add a n v =>
    if (n ≠ 4 ∧ n ≠ 8) ∨ a % n ≠ 0 then err
    else
      match (flatPlaces s p a n .atomic).bind fun l => (readPlaces w l s).map fun r => (l, r) with
      | none => err
      | some (l, bs, s1) =>
        reply (storePlaces (askPlaces s1 d w l true) w (l.zip (leBytes n ((leNat bs + v) % 2 ^ (8 * n))))) (.data id bs)

/-- Writes of a packet under an ended generation are counted (13 R266). -/
def hostWrites : HostOp → Bool
  | .read _ _ => false
  | _ => true

/-- `HOST_PACKET_INGRESS`. A package whose firmware does not run answers management requests only (14 R296). -/
def execHostPacketIngress (port : Nat) (k : HostPacket) (s : State) : Out :=
  .next (if s.firmware ≠ .running then s
    else
      match ingressOf s k.tenancy with
      | none => noIngress s (port / 8 % 4) k.tenancy
      | some (p, _, tag) =>
        if !tagCurrent s (.ingress (port / 8 % 4) (port % 8)) tag then (if hostWrites k.op then countLate s p else s)
        else hostAccess s (port / 8 % 4) p k.tenancy.toNat tag k.op)

/-- A request of the event service under its entry's tag; one of an ended generation is dropped, a write counted (DESIGN CHOICE, log 52). -/
def eventService (s : State) (id : BitVec 16) (writes : Bool) (f : Nat → Nat → Tag → State) : State :=
  if s.firmware ≠ .running then s
  else
    match ingressOf s id with
    | none => noIngress s 0 id
    | some (p, i, tag) => if !tagCurrent s (.hostNode id.toNat) tag then (if writes then countLate s p else s) else f p i tag

/-- The event vector as 32 bytes, as a reader of a tag sees it (13 R263). -/
def eventBytes (s : State) (tag : Tag) (p : Nat) : List Byte :=
  (List.range 32).map fun j =>
    BitVec.ofNat 8 ((List.range 8).foldl (fun n i => n + (if eventSeen s { tag } p (8 * j + i) then 2 ^ i else 0)) 0)

/-- `EVENT_READ`. -/
def execEventRead (tenancy : BitVec 16) (s : State) : Out :=
  .next (eventService s tenancy false fun p _ tag => reply s (.data tenancy.toNat (eventBytes s tag p)))

/-- `EVENT_WAIT`: answered at once, refused beyond 16 pending, or held. -/
def execEventWait (tenancy : BitVec 16) (bit : BitVec 8) (s : State) : Out :=
  .next (eventService s tenancy false fun p i tag =>
    if eventSeen s { tag } p bit.toNat then reply s (.data tenancy.toNat [1])
    else if 16 ≤ ((s.part p).eventWaits.filter fun e => e.entry == i).length then reply s (.error tenancy.toNat)
    else s.setPart p { s.part p with
      eventWaits := (s.part p).eventWaits ++ [{ entry := i, bit := bit.toNat, id := tenancy.toNat, tag }] })

/-- `EVENT_WAIT_REPLY`: a held wait whose bit is 1 under its own tag is answered to the id that asked. -/
def execEventWaitReply (part i : Nat) (s : State) : Out :=
  let p := s.part part
  .next (match p.eventWaits[i]? with
    | none => s
    | some e =>
      if eventSeen s { tag := e.tag } part e.bit then
        reply (s.setPart part { p with eventWaits := p.eventWaits.eraseIdx i }) (.data e.id [1])
      else s)

/-- `EVENT_SET` and `EVENT_CLEAR`. -/
def eventPut (s : State) (tenancy : BitVec 16) (bit : BitVec 8) (v : Bool) : State :=
  eventService s tenancy true fun p _ tag => reply (writeEvent s { tag } p bit.toNat v) (.ack tenancy.toNat)
def execEventSet (tenancy : BitVec 16) (bit : BitVec 8) (s : State) : Out := .next (eventPut s tenancy bit true)
def execEventClear (tenancy : BitVec 16) (bit : BitVec 8) (s : State) : Out := .next (eventPut s tenancy bit false)

/-! ## Management: attestation, keys, firmware, reports (13 R275-R277; 14 R293-R296; 21 R342, R344, R345, R347) -/

/-- A management request for the service core of a die is a notice, once its firmware runs, whatever its answer (15 R306; 21
R347). A request that names no die goes to die 0, a partition's SPDM among them (DESIGN CHOICE, log 53 and 93). -/
def mgmtNotice (s : State) (d : Nat) : State := if s.firmware = .running then notify s d .mgmt else s
/-- It is answered. -/
def mgmtReply (s : State) (d : Nat) (m : OutMsg) : State := mgmtNotice (reply s m) d

/-- A measurement block as the standard codes one: its index, the DMTF specification, its size, then the value's type with the bit of
the raw form, its size and the value (00 R8; R276) (PRESUMED, log 53). -/
def measureBlock (i ty : Nat) (v : List Byte) : List Byte :=
  [BitVec.ofNat 8 i, 1] ++ leBytes 2 (v.length + 3) ++ [BitVec.ofNat 8 (0x80 + ty)] ++ leBytes 2 v.length ++ v

/-- Measurement blocks 1 to 5 of a partition (R276): of the types of the standard's list, 1 stands for code and 3 for
configuration (DESIGN CHOICE, log 53). -/
def measurements (s : State) (p : Nat) : List Byte :=
  let q := s.part p
  let cfg := leBytes 8 q.groups.toNat ++ leBytes 1 q.weight ++ leBytes 3 q.sliceLen.toNat
    ++ q.ingress.flatMap (fun e => leBytes 2 e.id ++ leBytes 1 (if e.valid then 1 else 0) ++ leBytes 2 e.tag.toNat) ++ leBytes 8 q.tdt
  let flags := (if s.rawLocked then 1 else 0) + (if s.rawEntered then 2 else 0)
  measureBlock 1 1 (sha384 s.fwImage) ++ measureBlock 2 3 (sha384 cfg) ++ measureBlock 3 1 (sha384 q.objects.flatten)
    ++ measureBlock 4 3 (leBytes 2 (tagOf s p).toNat ++ leBytes 1 q.low.toNat) ++ measureBlock 5 3 (leBytes 1 flags)

/-- A MEASUREMENTS response up to its OpaqueData: version and code, five blocks and a nonce (PRESUMED, log 53). -/
def measureHead (s : State) (p : Nat) : List Byte :=
  let m := measurements s p
  [0x13, 0x60, 0, 0, 5] ++ leBytes 3 m.length ++ m ++ beBytes 32 (Config.spdmNonce s.fresh).toNat

/-- The key of an LMS tree as the `n`-th signature with it is made. -/
def treeKey (i n : Nat) : LmsKey :=
  { id := beBytes 16 (Config.hssId i).toNat, seed := beBytes 32 (Config.hssSeed i).toNat, rand := beBytes 32 (Config.hssRand i n).toNat }

/-- The HSS signature over a transcript hash, of a board that has the counter, its top leaf the count of boots (R275) (DESIGN CHOICE,
log 53 and 67). -/
def hssPart (s : State) (t : List Byte) : List Byte :=
  if Config.hasCounter then
    hssSign (treeKey 0 s.boots) (treeKey (s.boots + 1) s.hssSigned) (s.boots % 2 ^ 20) s.hssSigned t
  else []

/-- A MEASUREMENTS response to a transcript, whose last 8 bytes are its request's context: OpaqueData holds the HSS signature, and
the ECDSA signature ends it. The transcript hash of both covers what came before and the response up to OpaqueData, which cannot
cover itself (R275) (DESIGN CHOICE, log 105). -/
def measureResponse (s : State) (p : Nat) (x : List Byte) : List Byte :=
  let h := measureHead s p
  let t := sha384 (x ++ h)
  h ++ leBytes 2 (hssPart s t).length ++ hssPart s t ++ x.drop (x.length - 8) ++ ecdsaSign Config.ecdsaKey (Config.ecdsaNonce s.fresh) t

/-- The table of R8 names the option. -/
def optionNamed : Config.SpdmOption → Bool
  | .other => false
  | _ => true

/-- `SPDM_MEASUREMENTS`: the blocks under two signatures over the transcript, at most 32,768 times in a boot; a transcript that names
an option outside the table of R8 is refused (00 R8; R275) (DESIGN CHOICE, log 53 and 93). -/
def execSpdmMeasurements (part : Nat) (transcript : List Byte) (s : State) : Out :=
  .next (if 16 ≤ part ∨ 32768 ≤ s.hssSigned ∨ !(Config.spdmOptions transcript).all optionNamed then mgmtReply s 0 .mgmtError
    else mgmtReply { s with hssSigned := s.hssSigned + 1, fresh := s.fresh + 1 } 0 (.mgmt (measureResponse s part transcript)))

/-- `SPDM_SECURED_SESSION`: an exchange is answered and one more session of the partition is open; one that names an option
outside the table is refused (00 R8). -/
def execSpdmSecuredSession (part : Nat) (exchange : List Byte) (s : State) : Out :=
  .next (if 16 ≤ part ∨ !(Config.spdmOptions exchange).all optionNamed then mgmtReply s 0 .mgmtError
    else
      let s1 := s.setPart part { s.part part with sessions := (s.part part).sessions ++ [(s.fresh, 0)] }
      mgmtReply { s1 with fresh := s.fresh + 1 } 0 (.mgmt (Config.spdmAnswer s.fresh exchange)))

/-- What a message of a session carries, if it authenticates: 6 bytes of associated data, the ciphertext of a length of two
bytes with the data, and 16 bytes of tag, under the session's nonce with the count of messages (00 R8; R275) (PRESUMED, log 94). -/
def openMessage (x : Nat × Nat) (m : List Byte) : Option (List Byte) :=
  let iv := beBytes 12 ((Config.sessionIv x.1).toNat ^^^ x.2)
  let c := (m.drop 6).take (m.length - 22)
  (gcmOpen (beBytes 32 (Config.sessionKey x.1).toNat) iv (m.take 6) c (m.drop (m.length - 16))).map fun p =>
    (p.drop 2).take (leNat (p.take 2))

/-- What a session answers to a message: its session id, a length, and data under its key and nonce for replies (00 R8; R275)
(PRESUMED, log 94). -/
def sealMessage (x : Nat × Nat) (m d : List Byte) : List Byte :=
  let key := beBytes 32 (Config.replyKey x.1).toNat
  let iv := beBytes 12 ((Config.replyIv x.1).toNat ^^^ x.2)
  let aad := m.take 4 ++ leBytes 2 (d.length + 18)
  let c := gcmStream key iv (leBytes 2 d.length ++ d)
  aad ++ c ++ gcmTag key iv aad c

/-- The session of a message, by its place, with what it carries. -/
def sessionOf (l : List (Nat × Nat)) (m : List Byte) : Option (Nat × List Byte) :=
  l.zipIdx.findSome? fun x => (openMessage x.1 m).map fun d => (x.2, d)

/-- The partition owns a byte of its flat space, as the storage that holds it decides: what a die's device shows is nobody's
to write, and another package judges what is sent to it (R263). -/
def ownsFlat (s : State) (p a : Nat) : Bool :=
  match flatByte s p a .store with
  | .ok pl => (match pl.store with | .dev _ => false | _ => owns s p pl.store pl.addr)
  | .error _ => false

/-- `SPDM_KEY_DELIVERY`: keys that authenticate in an open session are written under the current tag, where the partition owns
(R277). The answer is a message of the session without data; a refusal is an error in clear (DESIGN CHOICE, log 106). -/
def execSpdmKeyDelivery (part addr : Nat) (sealedKeys : List Byte) (s : State) : Out :=
  let q := s.part part
  .next (match sessionOf q.sessions sealedKeys with
    | none => mgmtReply s 0 .mgmtError
    | some (k, keys) =>
      let s1 := s.setPart part { q with sessions := q.sessions.modify k fun x => (x.1, x.2 + 1) }
      if !(List.range keys.length).all (fun i => ownsFlat s part (addr + i)) then mgmtReply s1 0 .mgmtError
      else mgmtReply (flatWrite s1 (tagOf s part) addr keys) 0 (.mgmt (sealMessage (q.sessions.getD k (0, 0)) sealedKeys [])))

/-- The firmware image runs: it lies from address 0 of partition 0, and every service core starts there (DESIGN CHOICE, log 7). -/
def startFirmware (s : State) (image : List Byte) : State :=
  let s1 := storeCells { s with firmware := .running, fwImage := image } (who0 s) (.hbm 0) (cellsOf 0 image)
  let s2 := (List.range 4).foldl (fun s d =>
    (s.setCore (256 + d) { s.core (256 + d) with queues := [], matQ := [], copyQ := [], collQ := [], lease := {} }).setThread
      (svcThread d) { status := .running, tag := tagOf s 0 }) s1
  dropBlocks s2 0 0 (2 ^ 64)

/-- A firmware image verifies under both ECDSA P-384 and LMS (R296). -/
def firmwareVerifies (image : List Byte) : Bool :=
  let x := Config.firmwareParts image
  ecdsaVerify Config.firmwareEcdsaKey (sha384 x.1) x.2.1 && hssVerify Config.firmwareHssKey x.1 x.2.2

/-- `FIRMWARE_LOAD`: an image that verifies under both signatures runs; any other is not run (14 R296) (DESIGN CHOICE, log 7 and 9). -/
def execFirmwareLoad (image : List Byte) (s : State) : Out :=
  .next (if s.firmware ≠ .running ∧ firmwareVerifies image = true then reply (startFirmware s image) (.mgmt [])
    else mgmtReply s 0 .mgmtError)

/-- `HEALTH_REPORT_READ`. -/
def execHealthReportRead (die : Nat) (s : State) : Out :=
  .next (mgmtReply s (die % 4) (.mgmt (healthReport s (die % 4))))

/-- `ERROR_LOG_READ`. -/
def execErrorLogRead (die : Nat) (s : State) : Out :=
  .next (mgmtReply s (die % 4) (.mgmt ((s.die die).errlog.flatMap errBytes)))

/-- `COUNTER_BLOCK_READ`. -/
def execCounterBlockRead (die stack : Nat) (s : State) : Out :=
  .next (mgmtReply s (die % 4) (.mgmt (counterBytes (tget (s.die die).counters stack {}))))

/-- No tenant is open, nor has one been since power-on: bring-up (DESIGN CHOICE, log 54). -/
def bringUp (s : State) : Bool := !s.tenantRan && (List.range 16).all fun p => p == 0 || !(s.part p).isOpen

/-- `REGULATOR_SOURCE_SELECT`: the host's choice at bring-up (21 R344) (DESIGN CHOICE, log 54). -/
def execRegulatorSourceSelect (package : BitVec 16) (s : State) : Out :=
  .next (if bringUp s then mgmtReply { s with regulator := some package } 0 (.mgmt []) else mgmtReply s 0 .mgmtError)

/-- `PACKAGE_NUMBER_SET`: once, before any tenant opens (21 R347) (DESIGN CHOICE, log 54). -/
def execPackageNumberSet (n : BitVec 16) (s : State) : Out :=
  .next (if bringUp s && !s.pkgSet then mgmtReply { s with pkgNum := n, pkgSet := true } 0 (.mgmt []) else mgmtReply s 0 .mgmtError)

/-! ## Cuts (14 R290) -/

/-- Groups of a die that run a job. -/
def jobGroups (s : State) (d job : Nat) : List Nat := ((List.range 16).map (16 * d + ·)).filter fun g => groupRuns s g job
/-- Cores of a die that run a job. -/
def jobCores (s : State) (d job : Nat) : List Nat :=
  ((jobGroups s d job).flatMap groupCores).filter fun c => (launchOf s c).any fun l => l.job == job

/-- Collectives of a level that a core has started. -/
def collStarted (s : State) (core level : Nat) : Nat :=
  (s.core core).collQ.foldl (fun n r => if r.op = .coll ∧ r.started ∧ r.r.scp.toNat = level then max n r.collNo else n)
    (tget (s.core core).collsDone level 0)
/-- A die's count of started collectives of a level. -/
def dieStarted (s : State) (d job level : Nat) : Nat :=
  (jobCores s d job).foldl (fun n c => max n (collStarted s c level)) 0

/-- The cut counts of levels 2 to 5 (DESIGN CHOICE, log 51). -/
def cutCounts (s : State) (job : Nat) : Tab Nat :=
  [2, 3, 4, 5].foldl (fun t l => tset t l ((jobDies s job).foldl (fun n d => max n (dieStarted s d job l)) 0)) []

/-- A die has run on to the cut counts and its collectives are complete. -/
def atCut (s : State) (d : Nat) (c : Cut) : Bool :=
  (c.counts.all fun e => dieStarted s d c.job e.1 == e.2)
    && (jobCores s d c.job).all fun k => (s.core k).collQ.all fun r => r.op != .coll || !r.started

/-- The job's groups of a die have stopped and settled, and every write the job's threads sent from it is acknowledged. -/
def cutSettled (s : State) (d : Nat) (c : Cut) : Bool :=
  let gs := jobGroups s d c.job
  (gs.all fun g => settledGroups s (((s.group g).live).getD 0) [g])
    && s.writes.all fun w => w.src != d || !gs.contains (groupOf (coreOf w.tid))

/-- A soft stop is asked of a thread that runs. -/
def softStopAsk (s : State) (tid : Nat) : State := s.setThread tid (askStop (s.thread tid) false)

/-- One more step of a cut on a die: it reports, runs on, stops, settles (DESIGN CHOICE, log 51). -/
def cutStep (s : State) (d : Nat) (c : Cut) : Cut × State :=
  if !(jobDies s c.job).contains d then (c, s)
  else if !c.reached.contains d then
    let r := c.reached ++ [d]
    ({ c with reached := r, counts := if (jobDies s c.job).all fun e => r.contains e then cutCounts s c.job else c.counts }, s)
  else if c.counts.isEmpty then (c, s)
  else if !c.stopping.contains d then
    if atCut s d c then
      ({ c with stopping := c.stopping ++ [d] },
       ((jobGroups s d c.job).flatMap groupCores).foldl (fun s k => softStopAsk (softStopAsk s (2 * k)) (2 * k + 1)) s)
    else (c, s)
  else if !c.settled.contains d && cutSettled s d c then ({ c with settled := c.settled ++ [d] }, s)
  else (c, s)

/-- The cuts of a job advanced on a die. -/
def cutsStep (d job : Nat) : List Cut → State → List Cut × State
  | [], s => ([], s)
  | c :: l, s =>
    let r := if c.job = job then cutStep s d c else (c, s)
    let t := cutsStep d job l r.2
    (r.1 :: t.1, t.2)

/-- `CUT_MARKER`: the marker reaches a die, or the die goes on with the cut (DESIGN CHOICE, log 51). -/
def execCutMarker (die : Nat) (job : BitVec 16) (s : State) : Out :=
  let r := cutsStep die job.toNat s.cuts s
  .next { r.2 with cuts := r.1 }

/-! ## Errors (14 R292, R293) -/

/-- `PATROL_SCRUB`: a visit repairs what is correctable and changes no data (DEDUCED, log 56). -/
def execPatrolScrub (_die _line : Nat) (s : State) : Out := .next s

/-- The state with a group's shadow context in the live place, and back with what has become of it: an error in a shadow bank is one
of the storage that stands there (R292). -/
def showShadow (s : State) (g : Nat) (x : Ctx) : State :=
  let s1 := (groupCores g).foldl (fun s c =>
    ((s.setCore c (tget x.cores c {})).setThread (2 * c) (tget x.threads (2 * c) {})).setThread (2 * c + 1) (tget x.threads (2 * c + 1) {})) s
  s1.setGroup g { s1.group g with live := some x.part, flags := x.flags }
def hideShadow (s s1 : State) (g : Nat) (x : Ctx) : State :=
  let t := fun (c : Nat) => [2 * c, 2 * c + 1]
  let y : Ctx := { x with cores := (groupCores g).foldl (fun l c => tput {} l c (s1.core c)) [],
                          threads := ((groupCores g).flatMap t).foldl (fun l k => tput {} l k (s1.thread k)) [],
                          flags := (s1.group g).flags }
  let s2 := (groupCores g).foldl (fun s2 c => (t c).foldl (fun s2 k => s2.setThread k (s.thread k)) (s2.setCore c (s.core c))) s1
  s2.setGroup g { s.group g with shadow := some y }

/-- The index of a place of a core or a thread: its number, then the place in it (R293) (DESIGN CHOICE, log 86). -/
def errIdx (owner n : Nat) : Nat := owner * 2 ^ 32 + n

/-- The die, store code, index and tag of a place, for the log. A thread's window, scalar slots, vector slots, predicates and frames
have indices from multiples of 2^16 on (DESIGN CHOICE, log 86). Launch start writes every slot and predicate (11 R215), so each has the
tag of its thread, and so has each position there is (log 71). -/
def errPlace : State → ErrLoc → Nat × Nat × Nat × Tag
  | s, .hbm d line => (d, 0, 64 * line, (memOf s (.hbm d)).tag line)
  | s, .near c b => (dieOf c, 3, errLoc (.near c) (64 * b), (memOf s (.near c)).tag b)
  | s, .bank d b => (d, 4, 64 * b, (memOf s (.bank d)).tag b)
  | s, .tileUnit c t u =>
    (dieOf c, 2, errLoc (.tiles c) (unitRange (.tiles c) (70 * t + u)).1, (memOf s (.tiles c)).tag (70 * t + u))
  | s, .flag g i => (g / 16, 7, g * 256 + i, (tget (s.group g).flags i {}).tag)
  | s, .queueEntry c q i => (dieOf c, 5, errIdx c (16 * q + i), ((entryAt s c q i).map (·.tag)).getD Config.emptyTag)
  | s, .window t n => (dieOf (coreOf t), 6, errIdx t n, if n < (s.thread t).window.length then (s.thread t).tag else Config.emptyTag)
  | s, .sslot t n => (dieOf (coreOf t), 6, errIdx t (2 ^ 16 + n), (s.thread t).tag)
  | s, .vslot t n => (dieOf (coreOf t), 6, errIdx t (2 * 2 ^ 16 + n), (s.thread t).tag)
  | s, .pred t n => (dieOf (coreOf t), 6, errIdx t (3 * 2 ^ 16 + n), (s.thread t).tag)
  | s, .frame t n =>
    (dieOf (coreOf t), 6, errIdx t (4 * 2 ^ 16 + n), (((s.thread t).frames[n]?).map (·.tag)).getD Config.emptyTag)
  | s, .tblock d i =>
    (d, 9, i, ((s.die d).tcache[i]?.map fun b => BitVec.ofNat 12 (b.part * 256 + b.gen)).getD Config.emptyTag)
  | s, .tlbEntry c i => (dieOf c, 1, errIdx c i, (((s.core c).tlb[i]?).map (·.tag)).getD Config.emptyTag)
  | s, .shadow g l =>
    match (s.group g).shadow with
    | some x => errPlace (showShadow s g x) l
    | none => errPlace s l

/-- `SOFT_ERROR_CORRECTED`: repaired in place, counted and logged. -/
def execSoftErrorCorrected (die : Nat) (l : ErrLoc) (s : State) : Out :=
  let p := errPlace s l
  let s1 := match l with
    | .hbm d line => countStack s d (64 * line) fun c => { c with corr := c.corr + 1 }
    | _ => s
  .next (logErr s1 (die % 4) 1 p.2.1 p.2.2.2 p.2.2.1)

/-- A storage unit poisoned. -/
def poisonUnit (s : State) (st : Store) (u : Nat) : State := setMem s st ((memOf s st).setPoison u (some .data))

/-- A window position whose data is lost. -/
def loseVal : Val → Val
  | .s _ | .lostS => .lostS
  | .v _ | .lostV => .lostV

/-- A thread rewritten. -/
def onThr (s : State) (tid : Nat) (f : Thread → Thread) : State := s.setThread tid (f (s.thread tid))

/-- Data found uncorrectable, by its place (R292). -/
def poisonAt : State → ErrLoc → State
  | s, .hbm d line => poisonUnit s (.hbm d) line
  | s, .near c b => poisonUnit s (.near c) b
  | s, .bank d b => poisonUnit s (.bank d) b
  | s, .tileUnit c t u => poisonUnit s (.tiles c) (70 * t + u)
  | s, .flag g i => s.setGroup g { s.group g with flags := tput {} (s.group g).flags i { tget (s.group g).flags i {} with poison := true } }
  | s, .queueEntry c q i => (match entryAt s c q i with | some e => putEntry s c q i { e with poison := some .data } | none => s)
  | s, .window t n => onThr s t fun x => { x with window := x.window.modify n loseVal }
  | s, .sslot t n => onThr s t fun x => { x with lost := x.lost ++ [.sslot n] }
  | s, .vslot t n => onThr s t fun x => { x with lost := x.lost ++ [.vslot n] }
  | s, .pred t n => onThr s t fun x => { x with lost := x.lost ++ [.pred n] }
  | s, .frame t n => onThr s t fun x => { x with frames := x.frames.modify n fun f => { f with lost := true } }
  | s, .tblock d i => s.setDie d { s.die d with tcache := (s.die d).tcache.eraseIdx i }
  | s, .tlbEntry c i => s.setCore c { s.core c with tlb := (s.core c).tlb.eraseIdx i }
  | s, .shadow g l =>
    match (s.group g).shadow with
    | some x => hideShadow s (poisonAt (showShadow s g x) l) g x
    | none => s

/-- `UNCORRECTABLE_ERROR`: marked and logged with kind 2. -/
def execUncorrectableError (l : ErrLoc) (s : State) : Out :=
  let p := errPlace s l
  .next (logErr (poisonAt s l) p.1 2 p.2.1 p.2.2.2 p.2.2.1)

/-! ## Power (21 R343, R345) -/

/-- `POWER_ON`: the state right after reset, one boot later; the schedule and the free values go on. Fabric ports that fail
their training are out of use from the start, and logged (DESIGN CHOICE, log 4 and 57). -/
def execPowerOn (s : State) : Out :=
  .next (((List.range 32).filter fun n => Config.portFails (s.boots + 1) n).foldl losePort
    { State.reset with agenda := s.agenda, cur := s.cur, fresh := s.fresh, boots := s.boots + 1, out := s.out })

/-- The arithmetic clock one step of 50 MHz lower (DESIGN CHOICE, log 55). -/
def lowerClock (s : State) : State := { s with clockMhz := s.clockMhz - 50 }
def execVcoreLimit (s : State) : Out := .next (lowerClock s)
/-- `VMEM_LIMIT`: request tags held per lane fall to 4 (DESIGN CHOICE, log 55). -/
def execVmemLimit (s : State) : Out := .next { s with laneTags := 4 }
/-- `VLINK_LIMIT`: the highest fabric port in use is taken out of use (DESIGN CHOICE, log 55). -/
def execVlinkLimit (s : State) : Out :=
  .next (match ((List.range 32).reverse.find? fun n => !(s.die (n / 8)).deadPorts.contains (n % 8)) with
    | some n => losePort s n
    | none => s)
def execVauxLimit (s : State) : Out := .next (lowerClock s)
def execTdpLimit (s : State) : Out := .next (lowerClock s)
def execJunctionTempLimit (s : State) : Out := .next (lowerClock s)
/-- `CRITICAL_TEMP`: every partition is ended as for a firmware failure (14 R296). -/
def execCriticalTemp (s : State) : Out := .next (firmwareFailure s)

end Sys2Proof.Machine
end

