-- ==== Sys2Proof/Machine/Vector.lean ====
section
/-! DEFINITION. Vector instructions (06 R108-R123): major 0x2. -/

namespace Sys2Proof.Machine

open Sys2Proof

/-- A vector instruction: operands of the given needs, `n` lanes under the guard, zeros when wholly disabled. -/
def vectorOp (s : State) (h : Hdr) (n : Nat) (ops : Except Nat (List Val)) (zeros : List Val)
    (f : List Val → List Val × Flags) : State :=
  ofThread s (onThread s.th h n ops zeros f)

/-- Lane values with their flags as one vector, disabled lanes zero (R94). -/
def laneVec (s : State) (h : Hdr) (w n : Nat) (f : Nat → Nat × Flags) : Val × Flags :=
  let t := s.th
  let r := gather ((List.range n).map fun i => if enabledAt t h i then f i else (0, 0))
  (.v (ofLanes w r.1), r.2)

/-- A lane-wise instruction of `k` vector operands of the word's type (R94, R109). -/
def laneOp (s : State) (h : Hdr) (x : FmtA) (k : Nat) (f : (Nat → Nat → Nat) → Nat → Nat × Flags) : State :=
  let w := (tyA x).width
  let n := lanesOf w
  vectorOp s h n (getOps s.th ((fieldsA x k).map fun o => (Need.v, o))) [.v 0] fun vs =>
    let ls := vs.map (·.vec w)
    let r := laneVec s h w n (f fun j i => lane w (ls.getD j 0) i)
    ([r.1], r.2)

/-- A lane-wise arithmetic instruction: Finish of an exact value per lane. -/
def laneNumOp (s : State) (h : Hdr) (x : FmtA) (k : Nat) (f : Nat → List Num → Num × Flags) : State :=
  laneOp s h x k fun get i =>
    let l := (fieldsA x k).zipIdx.map fun o => operandNum (tyA x) o.1 (get o.2 i)
    let r := f i l
    let y := finish (tyA x) x.clp.toNat (sclOf x) r.1
    (y.1, r.2 ||| y.2)

/-- A lane-wise instruction on bits. -/
def laneBits (s : State) (h : Hdr) (x : FmtA) (k : Nat) (f : Nat → Nat → Nat → Nat → Nat) : State :=
  laneOp s h x k fun get i => (f (tyA x).width (get 0 i) (get 1 i) (get 2 i), 0)

def execVadd (h : Hdr) (x : FmtA) (s : State) : Out := .next (laneNumOp s h x 2 fun _ l => Num.add (num0 l) (num1 l))
def execVsub (h : Hdr) (x : FmtA) (s : State) : Out := .next (laneNumOp s h x 2 fun _ l => Num.add (num0 l) (num1 l).neg)
def execVmul (h : Hdr) (x : FmtA) (s : State) : Out := .next (laneNumOp s h x 2 fun _ l => Num.mul (num0 l) (num1 l))
def execVmulh (h : Hdr) (x : FmtA) (s : State) : Out :=
  .next (laneNumOp s h x 2 fun _ l => mulhNum (tyA x).width (num0 l) (num1 l))
def execVmad (h : Hdr) (x : FmtA) (s : State) : Out :=
  .next (laneNumOp s h x 3 fun _ l => Num.fma (num0 l) (num1 l) (num2 l))
def execVmin (h : Hdr) (x : FmtA) (s : State) : Out := .next (laneNumOp s h x 2 fun _ l => minNum (num0 l) (num1 l))
def execVmax (h : Hdr) (x : FmtA) (s : State) : Out := .next (laneNumOp s h x 2 fun _ l => maxNum (num0 l) (num1 l))
def execVand (h : Hdr) (x : FmtA) (s : State) : Out := .next (laneBits s h x 2 fun _ a b _ => a &&& b)
def execVor (h : Hdr) (x : FmtA) (s : State) : Out := .next (laneBits s h x 2 fun _ a b _ => a ||| b)
def execVxor (h : Hdr) (x : FmtA) (s : State) : Out := .next (laneBits s h x 2 fun _ a b _ => a ^^^ b)
def execVshl (h : Hdr) (x : FmtA) (s : State) : Out := .next (laneBits s h x 2 fun w a b _ => shlBits w a b)
def execVshr (h : Hdr) (x : FmtA) (s : State) : Out := .next (laneBits s h x 2 fun w a b _ => shrBits w a b)
def execVsar (h : Hdr) (x : FmtA) (s : State) : Out := .next (laneBits s h x 2 fun w a b _ => sarBits w a b)
def execVsel (h : Hdr) (x : FmtA) (s : State) : Out := .next (laneBits s h x 3 fun _ a b c => if c ≠ 0 then a else b)
def execVdiv (h : Hdr) (x : FmtA) (s : State) : Out :=
  .next (laneNumOp s h x 2 fun _ l => divNum (tyA x) (num0 l) (num1 l))
def execVsqrt (h : Hdr) (x : FmtA) (s : State) : Out := .next (laneNumOp s h x 1 fun _ l => numSqrt (num0 l))
def execVrcp (h : Hdr) (x : FmtA) (s : State) : Out := .next (laneNumOp s h x 1 fun _ l => numRcp (num0 l))
def execVrsqrt (h : Hdr) (x : FmtA) (s : State) : Out := .next (laneNumOp s h x 1 fun _ l => numRsqrt (num0 l))
def execVexp2 (h : Hdr) (x : FmtA) (s : State) : Out := .next (laneNumOp s h x 1 fun _ l => numExp2 (num0 l))
def execVlog2 (h : Hdr) (x : FmtA) (s : State) : Out := .next (laneNumOp s h x 1 fun _ l => numLog2 (num0 l))
def execVpopc (h : Hdr) (x : FmtA) (s : State) : Out := .next (laneBits s h x 1 fun w a _ _ => popBits w a)
def execVclz (h : Hdr) (x : FmtA) (s : State) : Out := .next (laneBits s h x 1 fun w a _ _ => clzBits w a)
def execVmov (h : Hdr) (x : FmtA) (s : State) : Out := .next (laneNumOp s h x 1 fun _ l => movNum (num0 l))
def execVli (h : Hdr) (x : FmtA) (s : State) : Out :=
  .next (laneNumOp s h x 1 fun i l => Num.add (num0 l) (Num.ofInt i))

/-! ## Conversions between widths (R112-R115) -/

def execVcvt (h : Hdr) (x : FmtA) (s : State) : Out :=
  let w := (tyA x).width
  let n := lanesOf w
  .next (vectorOp s h n (getOps s.th [(.v, x.opa)]) [.v 0] fun vs =>
    let a := (arg vs 0).vec w
    let r := laneVec s h w n fun i => convert (tyA x) x.clp.toNat (sclOf x) (operandNum (tyField x.opb) x.opa (lane w a i))
    ([r.1], r.2))

/-- R113, R84: source element i goes to the (i mod m)-th vector appended, at lane i div m.
A scalar source is broadcast at the source type's width, and a negative signed source of a natural `to`
gives 0 with INV (DESIGN CHOICE, log 77). -/
def execVwid (h : Hdr) (x : FmtA) (s : State) : Out :=
  let wf := (tyField x.opb).width
  let wt := (tyA x).width
  let m := wt / wf
  let n := lanesOf wf
  .next (vectorOp s h n (getOps s.th [(.v, x.opa)]) (List.replicate m (.v 0)) fun vs =>
    let a := (arg vs 0).vec wf
    let r := gather ((List.range n).map fun i =>
      if enabledAt s.th h i then convert (tyA x) x.clp.toNat (sclOf x) (operandNum (tyField x.opb) x.opa (lane wf a i))
      else (0, 0))
    ((List.range m).map fun k => .v (ofLanes wt ((List.range (n / m)).map fun i => r.1.getD (i * m + k) 0)), r.2))

/-- R114, R84: result lane j comes from consumed position j mod m at element j div m.
A scalar source is broadcast at the source type's width (DESIGN CHOICE, log 77). -/
def execVpack (h : Hdr) (x : FmtA) (s : State) : Out :=
  let wf := (tyField x.opb).width
  let wt := (tyA x).width
  let m := wf / wt
  let n := lanesOf wt
  .next (vectorOp s h n (getRun s.th x.opa m) [.v 0] fun vs =>
    let ls := vs.map (·.vec wf)
    let r := laneVec s h wt n fun j =>
      convert (tyA x) x.clp.toNat (sclOf x) (operandNum (tyField x.opb) x.opa (lane wf (ls.getD (j % m) 0) (j / m)))
    ([r.1], r.2))

/-- R115, R85: two f32 vectors to bf16 with the random values of `r`. A scalar in the run
is broadcast at 32 bits, one for `r` at 16 (DESIGN CHOICE, log 77). -/
def execVcvtsr (h : Hdr) (x : FmtA) (s : State) : Out :=
  let ops := match getRun s.th x.opa 2, getOp s.th .v x.opb with
    | .ok l, .ok r => .ok (l ++ [r])
    | .error a, .error b => .error (min a b)
    | .error a, _ => .error a
    | _, .error b => .error b
  .next (vectorOp s h 256 ops [.v 0] fun vs =>
    let a := (arg vs 0).vec 32
    let b := (arg vs 1).vec 32
    let rv := (arg vs 2).vec 16
    let r := laneVec s h 16 256 fun j => stochastic (lane 32 (if j % 2 = 0 then a else b) (j / 2)) (lane 16 rv j)
    ([r.1], r.2))

/-! ## Reductions (R116, R117) -/

/-- The modified lanes of a source, `none` where disabled. -/
def sourceNums (s : State) (h : Hdr) (x : FmtA) (a : Vec) : List (Option Num) :=
  let w := (tyA x).width
  (List.range (lanesOf w)).map fun i =>
    if enabledAt s.th h i then some (operandNum (tyA x) x.opa (lane w a i)) else none

/-- The type a reduction is finished in (R116). -/
def redTy (t : Ty) : Ty := if t.isFloat then .f32 else if Ty.isSigned t then .i64 else .n64

def execVred (h : Hdr) (x : FmtA) (s : State) : Out :=
  let w := (tyA x).width
  .next (vectorOp s h (lanesOf w) (getOps s.th [(.v, x.opa)]) [.s 0] fun vs =>
    let r := Num.sum ((sourceNums s h x ((arg vs 0).vec w)).filterMap id)
    let t := redTy (tyA x)
    let y := finish t x.clp.toNat (sclOf x) r.1
    ([.s (scalarOf t y.1)], r.2 ||| y.2))

/-- One lane of a scan: the exact running sum, its special terms, and the finished prefixes so far. -/
def scanStep (x : FmtA) (acc : List Num × List (Nat × Flags)) (e : Option Num) : List Num × List (Nat × Flags) :=
  match e with
  | none => (acc.1, acc.2 ++ [(0, 0)])
  | some a =>
    let seen := acc.1 ++ [a]
    let r := Num.sum seen
    let y := finish (tyA x) x.clp.toNat (sclOf x) r.1
    -- an exact finite sum stands for the terms it sums; special terms are kept
    let keep := match r.1 with
      | .fin _ _ _ => [r.1]
      | _ => seen
    (keep, acc.2 ++ [(y.1, r.2 ||| y.2)])

def execVscan (h : Hdr) (x : FmtA) (s : State) : Out :=
  let w := (tyA x).width
  .next (vectorOp s h (lanesOf w) (getOps s.th [(.v, x.opa)]) [.v 0] fun vs =>
    let r := gather ((sourceNums s h x ((arg vs 0).vec w)).foldl (scanStep x) ([], [])).2
    ([.v (ofLanes w r.1)], r.2))

/-! ## Lane moves (R118) -/

/-- Lane `n` of a and c taken together; 0 beyond. -/
def concatLane (w : Nat) (a c : Vec) (n : Nat) : Nat :=
  let l := lanesOf w
  if n < l then lane w a n else if n < 2 * l then lane w c (n - l) else 0

def execVperm (h : Hdr) (x : FmtA) (s : State) : Out :=
  let w := (tyA x).width
  .next (laneOp s h x 3 fun get i =>
    let n := get 1 i
    (if n < lanesOf w then get 0 n else if n < 2 * lanesOf w then get 2 (n - lanesOf w) else 0, 0))
def execVbcast (h : Hdr) (x : FmtA) (s : State) : Out :=
  let w := (tyA x).width
  .next (vectorOp s h (lanesOf w) (getOps s.th [(.v, x.opa), (.s, x.opb)]) [.v 0] fun vs =>
    let a := (arg vs 0).vec w
    let k := (arg vs 1).word.toNat
    let r := laneVec s h w (lanesOf w) fun _ => (if k < lanesOf w then lane w a k else 0, 0)
    ([r.1], r.2))
def execVslide (h : Hdr) (x : FmtA) (s : State) : Out :=
  let w := (tyA x).width
  .next (vectorOp s h (lanesOf w) (getOps s.th [(.v, x.opa), (.s, x.opb), (.v, x.opc)]) [.v 0] fun vs =>
    let r := laneVec s h w (lanesOf w) fun i =>
      (concatLane w ((arg vs 0).vec w) ((arg vs 2).vec w) (i + (arg vs 1).word.toNat), 0)
    ([r.1], r.2))
def execVtrn (h : Hdr) (x : FmtA) (s : State) : Out :=
  let w := (tyA x).width
  .next (vectorOp s h (lanesOf w) (getOps s.th [(.v, x.opa), (.v, x.opb)]) [.v 0, .v 0] fun vs =>
    let a := (arg vs 0).vec w
    let b := (arg vs 1).vec w
    let f := fun (o : Nat) => (laneVec s h w (lanesOf w) fun i =>
      (lane w (if i % 2 = 0 then a else b) (i / 2 * 2 + o), 0)).1
    ([f 0, f 1], 0))

/-! ## Microscaling (R119-R121) -/

/-- One scale group of `vmxq`: its E8M0 code, its codes and the flags (R119). -/
def quantGroup (t : Ty) (l : List (Option Num)) : Nat × List Nat × Flags :=
  let xs := l.map fun e => e.getD (.fin false 0 1)
  let special := xs.any fun a => match a with
    | .fin _ _ _ => false
    | _ => true
  let m := xs.foldl (fun m a => if Num.lt m a.abs then a.abs else m) (.fin false 0 1)
  if special then (0xFF, xs.map fun _ => 0, flagIf (xs.any (·.isSig)) fINV)
  else
    match m with
    | .fin _ n d =>
      if n = 0 then (0, xs.map fun _ => 0, 0)
      else
        let e := (min (max (log2Frac n d + 127) 0) 254).toNat
        let b := mxBits t
        let r := gather (xs.map fun a =>
          match a.scale ((b : Int) - 2 + 127 - e) with
          | .fin s p q =>
            let c := rneInt s p q
            let lo : Int := -(2 ^ (b - 1) : Nat)
            let hi : Int := (2 ^ (b - 1) : Nat) - 1
            let c' := if c.1 < lo then lo else if hi < c.1 then hi else c.1
            (wrapBits t.width c', flagIf (c.2 || c' != c.1) fNX)
          | _ => (0, 0))
        (e, r.1, r.2)
    | _ => (0, xs.map fun _ => 0, 0)

/-- R119. A scalar source is broadcast at the source type's width (DESIGN CHOICE, log 77). -/
def execVmxq (h : Hdr) (x : FmtA) (s : State) : Out :=
  let tf := tyField x.opb
  let wf := tf.width
  let n := lanesOf wf
  .next (vectorOp s h n (getOps s.th [(.v, x.opa)]) [.v 0, .s 0] fun vs =>
    let a := (arg vs 0).vec wf
    let gs := (List.range (n / 32)).map fun g => quantGroup (tyA x) ((List.range 32).map fun i =>
      if enabledAt s.th h (32 * g + i) then some (operandNum tf x.opa (lane wf a (32 * g + i))) else none)
    ([.v (ofLanes (tyA x).width (gs.flatMap fun g => g.2.1)),
      .s (BitVec.ofNat 64 ((gs.map (·.1)).foldr (fun b acc => b + 256 * acc) 0))], orFlags (gs.map fun g => g.2.2)))

/-- R120. Scalar codes are broadcast at the code type's width (DESIGN CHOICE, log 77). -/
def execVmxdq (h : Hdr) (x : FmtA) (s : State) : Out :=
  let tf := tyField x.opc
  let w := (tyA x).width
  .next (vectorOp s h (lanesOf w) (getOps s.th [(.v, x.opa), (.s, x.opb)]) [.v 0] fun vs =>
    let a := (arg vs 0).vec tf.width
    let e := (arg vs 1).word
    let r := laneVec s h w (lanesOf w) fun i =>
      finish (tyA x) x.clp.toNat (sclOf x) (mxOf tf (lane tf.width a i) (e.extractLsb' (8 * (i / 32)) 8).toNat)
    ([r.1], r.2))

/-- A lane counts as zero: ±0, code 0, or 0 (R121). -/
def laneZero (t : Ty) (x : Nat) : Bool :=
  if t.isFloat then x % 2 ^ (t.width - 1) == 0 else if t.isMx then x % 2 ^ mxBits t == 0 else x == 0

/-- The bitmap of runs of eight lanes from lane `b` on, at most 64 of them (R121). -/
def zeroRuns (s : State) (h : Hdr) (t : Ty) (a : Vec) (b n : Nat) : Word :=
  BitVec.ofNat 64 ((List.range n).foldl (fun acc j =>
    if (List.range 8).all fun i =>
      let k := b + 8 * j + i
      !enabledAt s.th h k || laneZero t (lane t.width a k) then acc + 2 ^ j else acc) 0)

/-- A lane that the guard disables counts as zero, so only the stage can disable the whole of it (R47, R121) (DEDUCED, log 24). -/
def execVbmap (h : Hdr) (x : FmtA) (s : State) : Out :=
  let t := tyA x
  let w := t.width
  let four := w = 4
  let ops := getOps s.th ([(.v, x.opa), (.s, x.opb)] ++ if four then [(.s, x.opc)] else [])
  .next (if ops.toOption.isSome && guardLost s.th h then raise s { cause := 0x19 }
    else vectorOp s { h with grd := 127 } (lanesOf w) ops (if four then [.s 0, .s 0] else [.s 0]) fun vs =>
      let a := (arg vs 0).vec w
      let n := min 64 (lanesOf w / 8)
      let r0 := Val.s ((arg vs 1).word &&& zeroRuns s h t a 0 n)
      if four then ([r0, .s ((arg vs 2).word &&& zeroRuns s h t a 512 64)], 0) else ([r0], 0))

/-! ## Others -/

def execVbnet (h : Hdr) (x : FmtA) (s : State) : Out :=
  .next (vectorOp s h 64 (getOps s.th [(.v, x.opa)]) [.v 0] fun vs =>
    let a := (arg vs 0).vec 64
    let pat := patternOf s x.typ.toNat
    let r := laneVec s h 64 64 fun i => ((bitNet pat (BitVec.ofNat 64 (lane 64 a i))).toNat, 0)
    ([r.1], r.2))

/-- R122: four products and the addend, exact, finished as 32 bits. A scalar addend is broadcast at 32 bits
and scalar factors at 8 (DESIGN CHOICE, log 77). -/
def execVdot4 (h : Hdr) (x : FmtA) (s : State) : Out :=
  let t := tyA x
  let tr : Ty := if t = .i8 then .i32 else .n32
  .next (vectorOp s h 128 (getOps s.th [(.v, x.opa), (.v, x.opb), (.v, x.opc)]) [.v 0] fun vs =>
    let a := (arg vs 0).vec 8
    let b := (arg vs 1).vec 8
    let c := (arg vs 2).vec 32
    let r := laneVec s h 32 128 fun i =>
      let ps := (List.range 4).map fun k =>
        (Num.mul (operandNum t x.opa (lane 8 a (4 * i + k))) (operandNum t x.opb (lane 8 b (4 * i + k)))).1
      finish tr x.clp.toNat (sclOf x) (Num.sum (ps ++ [operandNum tr x.opc (lane 32 c i)])).1
    ([r.1], r.2))

end Sys2Proof.Machine
end

