-- ==== Sys2Proof/Machine/Modular.lean ====
section
/-! DEFINITION. Modular instructions (07 R151, R152; 05 R86): major 0x4. -/

namespace Sys2Proof.Machine

open Sys2Proof

/-- The modulus slot a major 0x4 word names: SCL[9:7] (R57). -/
def modSlot (x : FmtA) : Nat := (x.scl.extractLsb' 0 3).toNat

/-- NEG and ABS of a natural operand (R86: ABS changes nothing). -/
def modOperand (f : OpField) (v : Nat) : Int := if f.getLsbD 8 then -(v : Int) else v

/-- One lane: the outputs, each a canonical residue, or zeros and MODINV for an invalid modulus (R152). -/
def modLane (q : Nat) (n : Nat) (f : List Int → List Int) (xs : List Int) : List Nat × Flags :=
  if !modValid q then (List.replicate n 0, fMOD)
  else ((f (xs.map fun v => v % (q : Int))).map fun v => modQ q v, 0)

/-- A modular instruction of `k` operands and `n` outputs: vectors if an operand read from the window is one (R151). -/
def modularOp (s : State) (h : Hdr) (x : FmtA) (k n : Nat) (f : List Int → List Int) : State :=
  let t := s.th
  let fs := fieldsA x k
  let ops := getOps t (fs.map fun o => (Need.e, o))
  let vec := match ops with
    | .ok vs => vs.any (·.isVec)
    | .error _ => false
  let q := (tget t.mods (modSlot x) 0).toNat
  if vec then
    vectorOp s h 64 ops (List.replicate n (.v 0)) fun vs =>
      let ls := vs.map (·.vec 64)
      let r := (List.range 64).map fun i =>
        if enabledAt t h i then modLane q n f (fs.zipIdx.map fun o => modOperand o.1 (lane 64 (ls.getD o.2 0) i))
        else (List.replicate n 0, 0)
      ((List.range n).map fun j => .v (ofLanes 64 (r.map fun e => e.1.getD j 0)), orFlags (r.map (·.2)))
  else
    vectorOp s h 1 ops (List.replicate n (.s 0)) fun vs =>
      let r := modLane q n f (fs.zipIdx.map fun o => modOperand o.1 (arg vs o.2).word.toNat)
      (r.1.map fun v => .s (BitVec.ofNat 64 v), r.2)

def int0 (l : List Int) : Int := l.getD 0 0
def int1 (l : List Int) : Int := l.getD 1 0
def int2 (l : List Int) : Int := l.getD 2 0

def execMqadd (h : Hdr) (x : FmtA) (s : State) : Out := .next (modularOp s h x 2 1 fun l => [int0 l + int1 l])
def execMqsub (h : Hdr) (x : FmtA) (s : State) : Out := .next (modularOp s h x 2 1 fun l => [int0 l - int1 l])
def execMqmul (h : Hdr) (x : FmtA) (s : State) : Out := .next (modularOp s h x 2 1 fun l => [int0 l * int1 l])
def execMqmac (h : Hdr) (x : FmtA) (s : State) : Out := .next (modularOp s h x 3 1 fun l => [int0 l * int1 l + int2 l])
def execMqred (h : Hdr) (x : FmtA) (s : State) : Out := .next (modularOp s h x 1 1 fun l => [int0 l])
def execMqbct (h : Hdr) (x : FmtA) (s : State) : Out :=
  .next (modularOp s h x 3 2 fun l => [int0 l + int2 l * int1 l, int0 l - int2 l * int1 l])
def execMqbgs (h : Hdr) (x : FmtA) (s : State) : Out :=
  .next (modularOp s h x 3 2 fun l => [int0 l + int1 l, (int0 l - int1 l) * int2 l])
/-- `mqset`: the slot takes the scalar; nothing is appended (R152). -/
def execMqset (h : Hdr) (x : FmtA) (s : State) : Out :=
  .next (updOp s h [(.s, x.opa)] fun vs t => { t with mods := tput 0 t.mods (modSlot x) (arg vs 0).word })

end Sys2Proof.Machine
end

