-- ==== Sys2Proof/Machine/Dispatch.lean ====
section
/-! DEFINITION. The dispatch: one arm for each constructor of `Instr`, a direct call of its meaning. -/

namespace Sys2Proof.Machine

def exec (i : Instr) (s : State) : Host.Outcome State Fault Refusal :=
  match i with
  | .add h x => Sys2Proof.Machine.execAdd h x s
  | .sub h x => Sys2Proof.Machine.execSub h x s
  | .mul h x => Sys2Proof.Machine.execMul h x s
  | .mulh h x => Sys2Proof.Machine.execMulh h x s
  | .div h x => Sys2Proof.Machine.execDiv h x s
  | .rem h x => Sys2Proof.Machine.execRem h x s
  | .mad h x => Sys2Proof.Machine.execMad h x s
  | .and_ h x => Sys2Proof.Machine.execAnd h x s
  | .or_ h x => Sys2Proof.Machine.execOr h x s
  | .xor_ h x => Sys2Proof.Machine.execXor h x s
  | .andn h x => Sys2Proof.Machine.execAndn h x s
  | .shl h x => Sys2Proof.Machine.execShl h x s
  | .shr h x => Sys2Proof.Machine.execShr h x s
  | .sar h x => Sys2Proof.Machine.execSar h x s
  | .rotl h x => Sys2Proof.Machine.execRotl h x s
  | .clz h x => Sys2Proof.Machine.execClz h x s
  | .ctz h x => Sys2Proof.Machine.execCtz h x s
  | .popc h x => Sys2Proof.Machine.execPopc h x s
  | .min h x => Sys2Proof.Machine.execMin h x s
  | .max h x => Sys2Proof.Machine.execMax h x s
  | .cmp3 h x => Sys2Proof.Machine.execCmp3 h x s
  | .sel h x => Sys2Proof.Machine.execSel h x s
  | .bfx h x => Sys2Proof.Machine.execBfx h x s
  | .bfi h x => Sys2Proof.Machine.execBfi h x s
  | .bnet h x => Sys2Proof.Machine.execBnet h x s
  | .cvt h x => Sys2Proof.Machine.execCvt h x s
  | .sqrt h x => Sys2Proof.Machine.execSqrt h x s
  | .lea h x => Sys2Proof.Machine.execLea h x s
  | .mov h x => Sys2Proof.Machine.execMov h x s
  | .vadd h x => Sys2Proof.Machine.execVadd h x s
  | .vsub h x => Sys2Proof.Machine.execVsub h x s
  | .vmul h x => Sys2Proof.Machine.execVmul h x s
  | .vmulh h x => Sys2Proof.Machine.execVmulh h x s
  | .vmad h x => Sys2Proof.Machine.execVmad h x s
  | .vmin h x => Sys2Proof.Machine.execVmin h x s
  | .vmax h x => Sys2Proof.Machine.execVmax h x s
  | .vand h x => Sys2Proof.Machine.execVand h x s
  | .vor h x => Sys2Proof.Machine.execVor h x s
  | .vxor h x => Sys2Proof.Machine.execVxor h x s
  | .vshl h x => Sys2Proof.Machine.execVshl h x s
  | .vshr h x => Sys2Proof.Machine.execVshr h x s
  | .vsar h x => Sys2Proof.Machine.execVsar h x s
  | .vsel h x => Sys2Proof.Machine.execVsel h x s
  | .vdiv h x => Sys2Proof.Machine.execVdiv h x s
  | .vsqrt h x => Sys2Proof.Machine.execVsqrt h x s
  | .vrcp h x => Sys2Proof.Machine.execVrcp h x s
  | .vrsqrt h x => Sys2Proof.Machine.execVrsqrt h x s
  | .vexp2 h x => Sys2Proof.Machine.execVexp2 h x s
  | .vlog2 h x => Sys2Proof.Machine.execVlog2 h x s
  | .vcvt h x => Sys2Proof.Machine.execVcvt h x s
  | .vwid h x => Sys2Proof.Machine.execVwid h x s
  | .vred h x => Sys2Proof.Machine.execVred h x s
  | .vscan h x => Sys2Proof.Machine.execVscan h x s
  | .vperm h x => Sys2Proof.Machine.execVperm h x s
  | .vbcast h x => Sys2Proof.Machine.execVbcast h x s
  | .vslide h x => Sys2Proof.Machine.execVslide h x s
  | .vtrn h x => Sys2Proof.Machine.execVtrn h x s
  | .vpack h x => Sys2Proof.Machine.execVpack h x s
  | .vmxq h x => Sys2Proof.Machine.execVmxq h x s
  | .vmxdq h x => Sys2Proof.Machine.execVmxdq h x s
  | .vbmap h x => Sys2Proof.Machine.execVbmap h x s
  | .vbnet h x => Sys2Proof.Machine.execVbnet h x s
  | .vpopc h x => Sys2Proof.Machine.execVpopc h x s
  | .vclz h x => Sys2Proof.Machine.execVclz h x s
  | .vdot4 h x => Sys2Proof.Machine.execVdot4 h x s
  | .vmov h x => Sys2Proof.Machine.execVmov h x s
  | .vcvtsr h x => Sys2Proof.Machine.execVcvtsr h x s
  | .vli h x => Sys2Proof.Machine.execVli h x s
  | .li h x => Sys2Proof.Machine.execLi h x s
  | .lih h x => Sys2Proof.Machine.execLih h x s
  | .addi h x => Sys2Proof.Machine.execAddi h x s
  | .andi h x => Sys2Proof.Machine.execAndi h x s
  | .ori h x => Sys2Proof.Machine.execOri h x s
  | .xori h x => Sys2Proof.Machine.execXori h x s
  | .shli h x => Sys2Proof.Machine.execShli h x s
  | .shri h x => Sys2Proof.Machine.execShri h x s
  | .sari h x => Sys2Proof.Machine.execSari h x s
  | .lf h x => Sys2Proof.Machine.execLf h x s
  | .mqadd h x => Sys2Proof.Machine.execMqadd h x s
  | .mqsub h x => Sys2Proof.Machine.execMqsub h x s
  | .mqmul h x => Sys2Proof.Machine.execMqmul h x s
  | .mqmac h x => Sys2Proof.Machine.execMqmac h x s
  | .mqred h x => Sys2Proof.Machine.execMqred h x s
  | .mqbct h x => Sys2Proof.Machine.execMqbct h x s
  | .mqbgs h x => Sys2Proof.Machine.execMqbgs h x s
  | .mqset h x => Sys2Proof.Machine.execMqset h x s
  | .sget h x => Sys2Proof.Machine.execSget h x s
  | .sput h x => Sys2Proof.Machine.execSput h x s
  | .vget h x => Sys2Proof.Machine.execVget h x s
  | .vput h x => Sys2Proof.Machine.execVput h x s
  | .keep h x => Sys2Proof.Machine.execKeep h x s
  | .pcmp h x => Sys2Proof.Machine.execPcmp h x s
  | .pset h x => Sys2Proof.Machine.execPset h x s
  | .pand h x => Sys2Proof.Machine.execPand h x s
  | .por h x => Sys2Proof.Machine.execPor h x s
  | .pxor h x => Sys2Proof.Machine.execPxor h x s
  | .pnot h x => Sys2Proof.Machine.execPnot h x s
  | .pmov h x => Sys2Proof.Machine.execPmov h x s
  | .pany h x => Sys2Proof.Machine.execPany h x s
  | .csrr h x => Sys2Proof.Machine.execCsrr h x s
  | .csrw h x => Sys2Proof.Machine.execCsrw h x s
  | .tdset h x => Sys2Proof.Machine.execTdset h x s
  | .tdget h x => Sys2Proof.Machine.execTdget h x s
  | .lidx h x => Sys2Proof.Machine.execLidx h x s
  | .bnld h x => Sys2Proof.Machine.execBnld h x s
  | .gen h x => Sys2Proof.Machine.execGen h x s
  | .jmp h x => Sys2Proof.Machine.execJmp h x s
  | .brt h x => Sys2Proof.Machine.execBrt h x s
  | .brf h x => Sys2Proof.Machine.execBrf h x s
  | .call h x => Sys2Proof.Machine.execCall h x s
  | .ret h x => Sys2Proof.Machine.execRet h x s
  | .jmpi h x => Sys2Proof.Machine.execJmpi h x s
  | .calli h x => Sys2Proof.Machine.execCalli h x s
  | .loop h x => Sys2Proof.Machine.execLoop h x s
  | .lend h x => Sys2Proof.Machine.execLend h x s
  | .done h x => Sys2Proof.Machine.execDone h x s
  | .brk h x => Sys2Proof.Machine.execBrk h x s
  | .trap h x => Sys2Proof.Machine.execTrap h x s
  | .alive h x => Sys2Proof.Machine.execAlive h x s
  | .ldi h x => Sys2Proof.Machine.execLdi h x s
  | .ldn h x => Sys2Proof.Machine.execLdn h x s
  | .ldv h x => Sys2Proof.Machine.execLdv h x s
  | .st h x => Sys2Proof.Machine.execSt h x s
  | .stv h x => Sys2Proof.Machine.execStv h x s
  | .pref h x => Sys2Proof.Machine.execPref h x s
  | .seal h x => Sys2Proof.Machine.execSeal h x s
  | .unseal h x => Sys2Proof.Machine.execUnseal h x s
  | .ldq h x => Sys2Proof.Machine.execLdq h x s
  | .tld h x => Sys2Proof.Machine.execTld h x s
  | .tst h x => Sys2Proof.Machine.execTst h x s
  | .tldq h x => Sys2Proof.Machine.execTldq h x s
  | .tgat h x => Sys2Proof.Machine.execTgat h x s
  | .tsct h x => Sys2Proof.Machine.execTsct h x s
  | .tinfo h x => Sys2Proof.Machine.execTinfo h x s
  | .qpush h x => Sys2Proof.Machine.execQpush h x s
  | .qpop h x => Sys2Proof.Machine.execQpop h x s
  | .qpeek h x => Sys2Proof.Machine.execQpeek h x s
  | .qcnt h x => Sys2Proof.Machine.execQcnt h x s
  | .qdrop h x => Sys2Proof.Machine.execQdrop h x s
  | .amoAdd h x => Sys2Proof.Machine.execAmoAdd h x s
  | .amoMin h x => Sys2Proof.Machine.execAmoMin h x s
  | .amoMax h x => Sys2Proof.Machine.execAmoMax h x s
  | .amoAnd h x => Sys2Proof.Machine.execAmoAnd h x s
  | .amoOr h x => Sys2Proof.Machine.execAmoOr h x s
  | .amoXor h x => Sys2Proof.Machine.execAmoXor h x s
  | .amoSwap h x => Sys2Proof.Machine.execAmoSwap h x s
  | .amoCas h x => Sys2Proof.Machine.execAmoCas h x s
  | .amoFadd h x => Sys2Proof.Machine.execAmoFadd h x s
  | .amoMadd h x => Sys2Proof.Machine.execAmoMadd h x s
  | .fence h x => Sys2Proof.Machine.execFence h x s
  | .finc h x => Sys2Proof.Machine.execFinc h x s
  | .fwait h x => Sys2Proof.Machine.execFwait h x s
  | .fset h x => Sys2Proof.Machine.execFset h x s
  | .fget h x => Sys2Proof.Machine.execFget h x s
  | .sync h x => Sys2Proof.Machine.execSync h x s
  | .evset h x => Sys2Proof.Machine.execEvset h x s
  | .evwait h x => Sys2Proof.Machine.execEvwait h x s
  | .evclr h x => Sys2Proof.Machine.execEvclr h x s
  | .tzero h x => Sys2Proof.Machine.execTzero h x s
  | .tfill h x => Sys2Proof.Machine.execTfill h x s
  | .trow h x => Sys2Proof.Machine.execTrow h x s
  | .twrow h x => Sys2Proof.Machine.execTwrow h x s
  | .tbmap h x => Sys2Proof.Machine.execTbmap h x s
  | .tscl h x => Sys2Proof.Machine.execTscl h x s
  | .lease h x => Sys2Proof.Machine.execLease h x s
  | .unlease h x => Sys2Proof.Machine.execUnlease h x s
  | .mwait h x => Sys2Proof.Machine.execMwait h x s
  | .mmul h x => Sys2Proof.Machine.execMmul h x s
  | .mmulc h x => Sys2Proof.Machine.execMmulc h x s
  | .mmod h x => Sys2Proof.Machine.execMmod h x s
  | .mtr h x => Sys2Proof.Machine.execMtr h x s
  | .cp h x => Sys2Proof.Machine.execCp h x s
  | .cpcv h x => Sys2Proof.Machine.execCpcv h x s
  | .cpdz h x => Sys2Proof.Machine.execCpdz h x s
  | .cpbk h x => Sys2Proof.Machine.execCpbk h x s
  | .coll h x => Sys2Proof.Machine.execColl h x s
  | .mig h x => Sys2Proof.Machine.execMig h x s
  | .migrep h x => Sys2Proof.Machine.execMigrep h x s
  | .note h x => Sys2Proof.Machine.execNote h x s
  | .dawn h x => Sys2Proof.Machine.execDawn h x s
  | .dusk h x => Sys2Proof.Machine.execDusk h x s
  | .sweep h x => Sys2Proof.Machine.execSweep h x s
  | .ctxsave h x => Sys2Proof.Machine.execCtxsave h x s
  | .ctxrest h x => Sys2Proof.Machine.execCtxrest h x s
  | .tlbi h x => Sys2Proof.Machine.execTlbi h x s
  | .tcinv h x => Sys2Proof.Machine.execTcinv h x s
  | .tret h x => Sys2Proof.Machine.execTret h x s
  | .slotld h x => Sys2Proof.Machine.execSlotld h x s
  | .cutmark h x => Sys2Proof.Machine.execCutmark h x s
  | .pull h x => Sys2Proof.Machine.execPull h x s
  | .tdsync h x => Sys2Proof.Machine.execTdsync h x s
  | .idle h x => Sys2Proof.Machine.execIdle h x s
  | .halt h x => Sys2Proof.Machine.execHalt h x s
  | .rawEnter h x => Sys2Proof.Machine.execRawEnter h x s
  | .rawLeave h x => Sys2Proof.Machine.execRawLeave h x s
  | .rawLock h x => Sys2Proof.Machine.execRawLock h x s
  | .part h x => Sys2Proof.Machine.execPart h x s
  | .nop h x => Sys2Proof.Machine.execNop h x s
  | .lit h x v => Sys2Proof.Machine.execLit h x v s
  | .prio h x => Sys2Proof.Machine.execPrio h x s
  | .nonInstructionWord w => Sys2Proof.Machine.execNonInstructionWord w s
  | .wdogFiredAnswer core => Sys2Proof.Machine.execWdogFiredAnswer core s
  | .registerWrite id v => Sys2Proof.Machine.execRegisterWrite id v s
  | .blockTranslation die part addr => Sys2Proof.Machine.execBlockTranslation die part addr s
  | .pageWalkComplete core w => Sys2Proof.Machine.execPageWalkComplete core w s
  | .queueEntryReady core q n => Sys2Proof.Machine.execQueueEntryReady core q n s
  | .readReply core q n => Sys2Proof.Machine.execReadReply core q n s
  | .writeApplyAtHome src => Sys2Proof.Machine.execWriteApplyAtHome src s
  | .earlyExposure die seq => Sys2Proof.Machine.execEarlyExposure die seq s
  | .remoteAtomicAtHome tid => Sys2Proof.Machine.execRemoteAtomicAtHome tid s
  | .writeAck src seq => Sys2Proof.Machine.execWriteAck src seq s
  | .ackTimeout src seq => Sys2Proof.Machine.execAckTimeout src seq s
  | .clockChannelExchange => Sys2Proof.Machine.execClockChannelExchange s
  | .atomicPageMigrate die frame => Sys2Proof.Machine.execAtomicPageMigrate die frame s
  | .atomicPageReturn die frame byDie => Sys2Proof.Machine.execAtomicPageReturn die frame byDie s
  | .baseDieRequest die lane => Sys2Proof.Machine.execBaseDieRequest die lane s
  | .waitConditionMet tid => Sys2Proof.Machine.execWaitConditionMet tid s
  | .syncBarrierRelease part level key => Sys2Proof.Machine.execSyncBarrierRelease part level key s
  | .sealComplete tid => Sys2Proof.Machine.execSealComplete tid s
  | .unsealComplete tid => Sys2Proof.Machine.execUnsealComplete tid s
  | .leaseGrant group => Sys2Proof.Machine.execLeaseGrant group s
  | .tenureTimeout group => Sys2Proof.Machine.execTenureTimeout group s
  | .recordStart core rid => Sys2Proof.Machine.execRecordStart core rid s
  | .recordElement core rid => Sys2Proof.Machine.execRecordElement core rid s
  | .recordComplete core rid => Sys2Proof.Machine.execRecordComplete core rid s
  | .migDeadlineMiss core rid => Sys2Proof.Machine.execMigDeadlineMiss core rid s
  | .mmulcArrayGrant core rid => Sys2Proof.Machine.execMmulcArrayGrant core rid s
  | .matrixBlockComplete core rid array => Sys2Proof.Machine.execMatrixBlockComplete core rid array s
  | .noteComplete core rid => Sys2Proof.Machine.execNoteComplete core rid s
  | .launchConsume part => Sys2Proof.Machine.execLaunchConsume part s
  | .dispatch part => Sys2Proof.Machine.execDispatch part s
  | .launchStart part launch => Sys2Proof.Machine.execLaunchStart part launch s
  | .launchComplete part launch => Sys2Proof.Machine.execLaunchComplete part launch s
  | .sliceEnd part => Sys2Proof.Machine.execSliceEnd part s
  | .softPreemptDrain tid => Sys2Proof.Machine.execSoftPreemptDrain tid s
  | .softStopGraceExpiry part => Sys2Proof.Machine.execSoftStopGraceExpiry part s
  | .gangSwitch part => Sys2Proof.Machine.execGangSwitch part s
  | .partitionResume part => Sys2Proof.Machine.execPartitionResume part s
  | .zeroSliceExchange part => Sys2Proof.Machine.execZeroSliceExchange part s
  | .watchdogUnitTick part launch => Sys2Proof.Machine.execWatchdogUnitTick part launch s
  | .watchdogExpiry core => Sys2Proof.Machine.execWatchdogExpiry core s
  | .watchdogRemoval core => Sys2Proof.Machine.execWatchdogRemoval core s
  | .removalDrainEnd part => Sys2Proof.Machine.execRemovalDrainEnd part s
  | .pendingCauseTaken tid => Sys2Proof.Machine.execPendingCauseTaken tid s
  | .singleStep tid => Sys2Proof.Machine.execSingleStep tid s
  | .sweepAutoStart part => Sys2Proof.Machine.execSweepAutoStart part s
  | .sweepPassComplete part => Sys2Proof.Machine.execSweepPassComplete part s
  | .slotTableUpdate die => Sys2Proof.Machine.execSlotTableUpdate die s
  | .flitArrival die port f => Sys2Proof.Machine.execFlitArrival die port f s
  | .linkFlitRetry port => Sys2Proof.Machine.execLinkFlitRetry port s
  | .portLost port => Sys2Proof.Machine.execPortLost port s
  | .hostPacketIngress port k => Sys2Proof.Machine.execHostPacketIngress port k s
  | .eventRead tenancy => Sys2Proof.Machine.execEventRead tenancy s
  | .eventWait tenancy bit => Sys2Proof.Machine.execEventWait tenancy bit s
  | .eventWaitReply part n => Sys2Proof.Machine.execEventWaitReply part n s
  | .eventSet tenancy bit => Sys2Proof.Machine.execEventSet tenancy bit s
  | .eventClear tenancy bit => Sys2Proof.Machine.execEventClear tenancy bit s
  | .spdmMeasurements part transcript => Sys2Proof.Machine.execSpdmMeasurements part transcript s
  | .spdmKeyDelivery part addr sealedKeys => Sys2Proof.Machine.execSpdmKeyDelivery part addr sealedKeys s
  | .firmwareLoad image => Sys2Proof.Machine.execFirmwareLoad image s
  | .healthReportRead die => Sys2Proof.Machine.execHealthReportRead die s
  | .errorLogRead die => Sys2Proof.Machine.execErrorLogRead die s
  | .counterBlockRead die stack => Sys2Proof.Machine.execCounterBlockRead die stack s
  | .regulatorSourceSelect package => Sys2Proof.Machine.execRegulatorSourceSelect package s
  | .packageNumberSet n => Sys2Proof.Machine.execPackageNumberSet n s
  | .cutMarker die job => Sys2Proof.Machine.execCutMarker die job s
  | .patrolScrub die line => Sys2Proof.Machine.execPatrolScrub die line s
  | .softErrorCorrected die l => Sys2Proof.Machine.execSoftErrorCorrected die l s
  | .uncorrectableError l => Sys2Proof.Machine.execUncorrectableError l s
  | .powerOn => Sys2Proof.Machine.execPowerOn s
  | .vcoreLimit => Sys2Proof.Machine.execVcoreLimit s
  | .vmemLimit => Sys2Proof.Machine.execVmemLimit s
  | .vlinkLimit => Sys2Proof.Machine.execVlinkLimit s
  | .vauxLimit => Sys2Proof.Machine.execVauxLimit s
  | .tdpLimit => Sys2Proof.Machine.execTdpLimit s
  | .junctionTempLimit => Sys2Proof.Machine.execJunctionTempLimit s
  | .criticalTemp => Sys2Proof.Machine.execCriticalTemp s
  | .linkRetrained port => Sys2Proof.Machine.execLinkRetrained port s
  | .spdmSecuredSession part exchange => Sys2Proof.Machine.execSpdmSecuredSession part exchange s
  | .openSlotGrant die out => Sys2Proof.Machine.execOpenSlotGrant die out s

end Sys2Proof.Machine
end

