-- ==== Sys2Proof/Machine/Time.lean ====
section
/-! DEFINITION. Time passes: slots carry flits over the on-package links (21 R330), waiters grow older (11 R223), ticks count
(11 R230, 12 R256), a boundary notes what dispatch and exchange go by (11 R214, R228), and waits on flags and events that
have been met end (10 R206, R207). -/

namespace Sys2Proof.Machine

open Sys2Proof

/-! ## Slots -/

/-- A partition's weight in the arbitration by age; partition 0, to which `part` gives none, counts 1 (11 R223; 21 R335)
(DESIGN CHOICE, log 58). -/
def weightOf (s : State) (p : Nat) : Nat := max 1 (s.part p).weight

/-- The heads of a die's class buffers, the first flit of each input and class, are `n` slots older. -/
def ageHeads (s : State) (n : Nat) (l : List Buffered) : List Buffered :=
  (l.foldl (fun (acc : List Buffered × List (Nat × Option MsgClass)) b =>
    let key := (b.port, b.f.cls)
    if acc.2.contains key then (acc.1 ++ [b], acc.2)
    else (acc.1 ++ [{ b with age := b.age + n * weightOf s (tagPart b.f.tag) }], key :: acc.2)) ([], [])).1

/-- `n` slots pass in which no flit is on an on-package link. -/
def passIdle (s : State) (n : Nat) : State :=
  { s with slot := s.slot + n, dies := s.dies.map fun d => (d.1, { d.2 with buffers := ageHeads s n d.2.buffers }) }

/-- One slot passes, and the flits that were on the links enter their routers. -/
def passSlot (s : State) : State :=
  let s1 := { passIdle s 1 with transit := s.transit.filter fun t => t.slot != s.slot + 1 }
  (s.transit.filter fun t => t.slot == s.slot + 1).foldl (fun s t => flitIn s t.die t.port t.start t.f) s1

/-- Slots pass one after another while a flit is on a link. -/
def passSlots : Nat → State → State
  | 0, s => s
  | n + 1, s => if s.transit.isEmpty then passIdle s (n + 1) else passSlots n (passSlot s)

/-! ## Cycles -/

/-- A record with a beat ready that its engine does not serve is `n` cycles older. -/
def ageRecord (s : State) (core n : Nat) (x : Rec) : Rec :=
  if x.op != .note && beatReady s core x && !midBeat s core x then
    { x with age := x.age + n * weightOf s (tagPart x.tag) }
  else x

/-- Every such record is. -/
def ageRecords (s : State) (n : Nat) : State :=
  { s with cores := s.cores.map fun c =>
      (c.1, { c.2 with copyQ := c.2.copyQ.map (ageRecord s c.1 n), collQ := c.2.collQ.map (ageRecord s c.1 n) }) }

/-- A cycle ends for every thread that waits on a flag or an event (10 R206, R207). -/
def endWaits (s : State) : State := (s.threads.filter fun t => waitsCond t.2).foldl (fun s t => cycleEnd s t.1) s

/-- Lanes that hold all their request tags count a stall each cycle (21 R342). -/
def countStalls (s : State) (n : Nat) : State :=
  s.dies.foldl (fun s d =>
    let lanes := (d.2.ports.map fun r => (r.stack, r.lane)).eraseDups
    (lanes.filter fun k => decide (s.laneTags ≤ (d.2.ports.filter fun r => (r.stack, r.lane) == k).length)).foldl (fun s k =>
      countStack s d.1 (k.1 * Config.stackBytes) fun c => { c with stall := c.stall + BitVec.ofNat 64 n }) s) s

/-! ## Ticks -/

/-- The partition's time counts: it is live on all its groups and has not been stopped by `ctxsave`; partition 0 always. -/
def timeCounts (s : State) (p : Nat) : Bool := p == 0 || (liveAll s p && !(s.part p).saved)

/-- A running launch is `n` ticks older (11 R230). -/
def ageLaunch (n : Nat) (l : Launch) : Launch := if l.status = .running then { l with ticks := l.ticks + n } else l

/-- A deadline is `n` ticks nearer, or missed (12 R256). -/
def ageDeadline (n : Nat) (x : Rec) : Rec :=
  match x.deadline with
  | some k => { x with deadline := some (k - n), missed := x.missed || decide (k < n) }
  | none => x

/-- Launches and deadlines of the partitions whose time counts are `n` ticks on. -/
def countTicks (s : State) (n : Nat) : State :=
  { s with parts := s.parts.map fun q =>
             (q.1, if timeCounts s q.1 then { q.2 with launches := q.2.launches.map (ageLaunch n) } else q.2),
           cores := s.cores.map fun c =>
             (c.1, if timeCounts s (partOf s c.1) then { c.2 with copyQ := c.2.copyQ.map (ageDeadline n) } else c.2) }

/-- What a boundary notes of a partition, as it comes: bits that are 1, cores that are not free, and whether an exchange at
SLICE.LEN 0 is due (11 R214, R216, R228). -/
def noteBoundary (s : State) (p : Nat) (q : Part) : Part :=
  let bits := fun (l : List Nat) => BitVec.ofNat 256 (l.foldl (fun n i => n + 2 ^ i) 0)
  { q with zeroHeld := zeroDue s p,
           bitsHeld := bits ((List.range 256).filter (eventBit s p)),
           busyHeld := bits ((List.range 256).filter fun c => !coreFree s p c) }
def noteBoundaries (s : State) : State := { s with parts := s.parts.map fun q => (q.1, noteBoundary s q.1 q.2) }

/-- `cycles` and `slots` pass; sources act anew in a new cycle (DESIGN CHOICE, log 3). -/
def passTime (s : State) (cycles slots : Nat) : State :=
  let dt := (s.slot + slots) / 256 - s.slot / 256
  let s1 := if cycles = 0 then s else endWaits (ageRecords (countStalls { s with cycle := s.cycle + cycles, lastSource := 0 } cycles) cycles)
  let s2 := passSlots slots s1
  if dt = 0 then s2 else noteBoundaries (countTicks s2 dt)

/-! ## The order of sources within a cycle (10 R199) -/

/-- A source acts: in this cycle, unless a later one has acted in it, and then in the next (DESIGN CHOICE, log 95). -/
def inTurn (s : State) (rank : Nat) : State :=
  { (if rank + 1 < s.lastSource then passTime s 1 0 else s) with lastSource := rank + 1 }

/-- A step for a source. -/
def inTurnOf (s : State) : Option Nat → State
  | some r => inTurn s r
  | none => s

/-- A thread that waits tries again in a cycle of its own, when the schedule has nothing else. -/
def restCycle (s : State) (tid : Nat) : State :=
  match (s.thread tid).status with
  | .waiting _ => passTime s 1 0
  | _ => s

/-- The router input at which a packet from a fabric port of a die arrives at the home of what it reaches (21 R330). -/
def homeInput (s : State) (port : Nat) (k : HostPacket) : Nat :=
  let d := port / 8 % 4
  let a := match k.op with
    | .read a _ | .write a _ | .add a _ _ => a
  match (ingressOf s k.tenancy).bind fun e => (flatByte s e.1 a .load).toOption with
  | some p =>
    let h := homeOf s p.store p.addr
    if h = d ∨ 4 ≤ h then port % 8 else 7 + (d + 4 - h) % 4
  | none => port % 8

/-- The source that a step of the machine stands for, by its place in R199's order; a request of the event service has no port, and
goes by its tenancy id alone (DESIGN CHOICE, log 95). -/
def sourceOf (s : State) : Instr → Option Nat
  | .recordElement core _ | .matrixBlockComplete core _ _ | .noteComplete core _ => some (sourceRank core true)
  | .writeApplyAtHome src => (unapplied s src).head?.map fun w => sourceRank (coreOf w.tid) w.eng
  | .remoteAtomicAtHome tid => some (sourceRank (coreOf tid) false)
  | .readReply core _ _ => some (sourceRank core false)
  | .hostPacketIngress port k => some (packetRank (homeInput s port k) k.tenancy.toNat)
  | .eventRead t | .eventWait t _ | .eventSet t _ | .eventClear t _ => some (packetRank 0 t.toNat)
  | _ => none

end Sys2Proof.Machine
end

