-- ==== Sys2Proof/Machine/Sched.lean ====
section
/-! DEFINITION. The moves of the schedule: a thread's next instruction or pending cause, a step of the machine, and what the
checking points and the supervisor do between them (14 R284; 13 R265, R275). -/

namespace Sys2Proof.Machine

open Sys2Proof

/-- A step of the machine that no word names (95). -/
def isEvent (i : Instr) : Bool := check i == some .event

/-- The thread's next instruction: fetched, or the cause of reaching it. -/
def instrStep (s : State) : Host.Outcome State Fault Refusal :=
  match fetchInstr s s.cur with
  | .error t => .next (raise s t)
  | .ok (s1, i) => exec i s1

/-- The loss of a write that the thread waits on is pending: a cause of the instruction it stands at (08 R169). -/
def lossDue (t : Thread) : Bool :=
  match t.status with
  | .waiting (.applied _) => t.pend.any fun c => c.cause == 0x1A
  | _ => false

/-- A thread at a boundary with causes pending: a cause of the instruction there comes first, unless one is pending from the
instruction itself; otherwise it takes the first pending one (14 R284) (DEDUCED, log 79). -/
def pendingStep (s : State) : Host.Outcome State Fault Refusal :=
  let t := s.th
  if !mayTake s s.cur then .next s
  else if t.status = .done ∨ lossDue t ∨ (firstPend t.pend).any fun c => pendRank c == 0 then .next (takePend s s.cur)
  else
    match instrStep s with
    | .next s1 => .next (if (s1.thread s.cur).status = .trapped ∨ s1.firmware = .failed then s1 else takePend s s.cur)
    | r => r

/-- A thread's move: a pending cause, a single step or a soft stop first, then its instruction; nothing if it may not run (DESIGN CHOICE, log 1). -/
def threadStep (s : State) : Host.Outcome State Fault Refusal :=
  let t := s.th
  if !mayRun s s.cur then .next s
  else if atBoundary t && causeWaits t then pendingStep s
  else if atBoundary t && (t.hard || (t.soft && softStopsHere t)) then Sys2Proof.Machine.execSoftPreemptDrain s.cur s
  else
    match t.status with
    | .waiting w => if w.byEvent then .next s else instrStep s
    | _ => instrStep s

/-- A step for a thread; the current thread stays. -/
def stepFor (tid : Nat) (s : State) (f : State → Host.Outcome State Fault Refusal) : Host.Outcome State Fault Refusal :=
  match f { s with cur := tid } with
  | .next t => .next { t with cur := s.cur }
  | r => r

/-- A step of the machine: what its arm of `exec` says, but that a pending cause or a finished single step lets a cause of the
instruction at the boundary go first (14 R284). -/
def eventStep (i : Instr) (s : State) : Host.Outcome State Fault Refusal :=
  match i with
  | .pendingCauseTaken tid => if (s.thread tid).pend.isEmpty then exec i s else stepFor tid s pendingStep
  | .singleStep tid =>
    if (s.thread tid).stepMode = .fired ∧ (s.thread tid).pend.isEmpty then stepFor tid s pendingStep else exec i s
  | _ => exec i s

/-- A move of the schedule that is not an instruction and not time (DESIGN CHOICE, log 1). -/
def moveLag (s : State) (p : Nat) (pts : List Point) : State := s.setPart p { s.part p with slow := pts }
def moveInstall (s : State) (p : Nat) (pt : Point) : State :=
  s.setPart p { s.part p with behind := (s.part p).behind.filter (· != pt) }
def moveCodeObject (s : State) (p : Nat) (image : List Byte) : State :=
  s.setPart p { s.part p with objects := (s.part p).objects ++ [sha384 image] }

end Sys2Proof.Machine
end

