-- ==== Sys2Proof/Machine/Step.lean ====
section
/-! DEFINITION. One step of the package: the next move of the agenda, or the current thread when the agenda is empty. -/

namespace Sys2Proof.Machine

open Sys2Proof

/-- One step (DESIGN CHOICE, log 1). -/
def step (s : State) : Host.Outcome State Fault Refusal :=
  match s.agenda with
  | .event i :: rest =>
    if isEvent i then eventStep i (inTurnOf { s with agenda := rest } (sourceOf s i)) else .next { s with agenda := rest }
  | .pass c n :: rest => .next (passTime { s with agenda := rest } c n)
  | .lag p pts :: rest => .next (moveLag { s with agenda := rest } p pts)
  | .install p pt :: rest => .next (moveInstall { s with agenda := rest } p pt)
  | .codeObject p image :: rest => .next (moveCodeObject { s with agenda := rest } p image)
  | .thread tid :: rest =>
    if tid < 520 then threadStep (inTurn { s with agenda := rest, cur := tid } (sourceRank (coreOf tid) false)) else .fault .noThread
  | [] =>
    if s.cur < 520 then threadStep (inTurn (restCycle s s.cur) (sourceRank (coreOf s.cur) false)) else .fault .noThread

/-- The instruction of these bits stored where `step` fetches next (DESIGN CHOICE, log 9). -/
def State.withFetchWord (s : State) (nbits w : Nat) : State := placeWord s nbits w

end Sys2Proof.Machine
end

