-- ==== Sys2Proof/Safety.lean ====
section
/-! DEFINITION. What counts as safe: raw-access mode stays off once it is locked (13 R268, 15 R309), the package's tables keep
rising keys, and every storage array of the package keeps its canonical form. -/

namespace Sys2Proof.Safety

open Sys2Proof Sys2Proof.Machine

/-- While raw-access mode is locked, no die is in it (13 R268, 15 R309). -/
def RawLocked (s : State) : Prop := s.rawLocked = true → ∀ e ∈ s.dies, e.2.raw = false

/-- Tables by number keep their keys strictly rising: those of the package, the flag files, the event vectors and the clocks. -/
def TablesOk (s : State) : Prop :=
  (tsorted s.threads = true ∧ tsorted s.cores = true ∧ tsorted s.groups = true ∧ tsorted s.parts = true
    ∧ tsorted s.dies = true ∧ tsorted s.applied = true)
    ∧ (∀ e ∈ s.groups, tsorted e.2.flags = true ∧ ∀ c, e.2.shadow = some c → tsorted c.flags = true)
    ∧ (∀ e ∈ s.parts, tsorted e.2.events = true)
    ∧ ∀ e ∈ s.dies, tsorted e.2.clock = true ∧ tsorted e.2.known = true

/-- Near stores and tile files of these cores are canonical. -/
def CoresWf (t : Tab Core) : Prop := ∀ e ∈ t, e.2.near.wf = true ∧ e.2.tiles.wf = true

/-- Every storage array of the package is in canonical form: stacks, bank memories, and the near stores and tile files of
live contexts and of those in shadow banks. -/
def MemWf (s : State) : Prop :=
  (∀ e ∈ s.dies, e.2.hbm.wf = true ∧ e.2.bank.wf = true) ∧ CoresWf s.cores
    ∧ ∀ e ∈ s.groups, ∀ c, e.2.shadow = some c → CoresWf c.cores

/-- A step that is safe: it answers a next state, and what must hold of every state holds of it. -/
def SafeStep (s : State) : Prop :=
  ∃ t, Machine.step s = .next t ∧ (RawLocked s → RawLocked t) ∧ (TablesOk s → TablesOk t) ∧ (MemWf s → MemWf t)

end Sys2Proof.Safety
end

