-- ==== Sys2Proof/Certificates/Slice0/Obligations.lean ====
section
/-! DEFINITION. The statements for the provers: one `def Obligations.<Name> : Prop` each, over the words of `Sys2Proof.Spec`
below. Each docstring names the rules it rests on, and the log entry where a clause is the model's choice. -/

namespace Sys2Proof.Spec

open Sys2Proof Sys2Proof.Machine

/-- The instruction is enabled (R47), and its guard reads no predicate whose data is lost (R292). -/
def Runs (s : State) (h : Hdr) : Prop := enabled s.th h = true ∧ guardLost s.th h = false

/-- Some of the `n` lanes are enabled (R47), and the guard reads no predicate whose data is lost (R292). -/
def RunsLanes (s : State) (h : Hdr) (n : Nat) : Prop := enabledAny s.th h n = true ∧ guardLost s.th h = false

/-- The instruction is disabled by its stage or its guard, outside a refill, on every lane (R47, R55). -/
def Disabled (s : State) (h : Hdr) : Prop :=
  s.th.status = .running ∧ guardLost s.th h = false ∧ stageAct s.th h.stg.toNat ≠ .drained ∧
    (stageAct s.th h.stg.toNat = .off ∨ h.grd ≠ 127 ∧ ∀ i, guardBit s.th h i = false)

/-- The field names a window position that holds a vector (R48, R50). -/
def NamesVector (s : State) (f : OpField) : Prop :=
  f.getLsbD 6 = false ∧ ∃ v, s.th.window[(f.extractLsb' 0 6).toNat]? = some v ∧ v.isVec = true

/-- The operand fields read these values, none of whose data is lost (R48, R50, R292). -/
def Reads (s : State) (ops : List (Need × OpField)) (vs : List Val) : Prop :=
  getOps s.th ops = .ok vs ∧ vs.any (·.isLost) = false

/-- A scalar operand (R48). -/
abbrev sc (f : OpField) : Need × OpField := (.s, f)
/-- A vector operand, where a scalar is broadcast (R48, R50). -/
abbrev vc (f : OpField) : Need × OpField := (.v, f)

/-- `exec` answers the state in which the current thread has appended `vs`, oldest first, raised `fl`, and goes on at the
next word; `Obligations.Finishing` says what that state holds. -/
def Does (i : Instr) (s : State) (vs : List Val) (fl : Flags := 0) : Prop := exec i s = .next (finishIn s vs fl)

end Sys2Proof.Spec

namespace Sys2Proof.Spec

open Sys2Proof Sys2Proof.Machine

/-- The operand as an exact value of the word's type, after ABS and NEG (R49, R96). -/
abbrev opv (x : FmtA) (f : OpField) (a : Word) : Machine.Num := scalarNum (tyA x) f a

/-- A scalar result of exact value `r`, finished for the word's type and written as R76 states. -/
abbrev fin (x : FmtA) (r : Machine.Num) : Val := .s (scalarOf (tyA x) (finish (tyA x) x.clp.toNat (sclOf x) r).1)
/-- The flags of that finish (R80). -/
abbrev finFl (x : FmtA) (r : Machine.Num) : Flags := (finish (tyA x) x.clp.toNat (sclOf x) r).2

/-- A word as a result of 32 or 64 bits is written (R76). -/
def written (t : Ty) (r : Word) : Word :=
  if t = .i32 then (r.setWidth 32).signExtend 64 else if t.width = 32 then (r.setWidth 32).zeroExtend 64 else r

/-- A field without NEG and ABS. -/
def plain (f : OpField) : Prop := f.getLsbD 7 = false ∧ f.getLsbD 8 = false

/-- Format A with this type, no clamp, no scale and no modifiers. -/
def plainA (x : FmtA) (ty : Nat) : Prop :=
  x.typ = BitVec.ofNat 7 ty ∧ x.clp = 0 ∧ x.scl = 0 ∧ plain x.opa ∧ plain x.opb ∧ plain x.opc

/-- A type of the set Z of scalar instructions (R95). -/
def isZ (t : Ty) : Prop := t = .i64 ∨ t = .n64 ∨ t = .i32 ∨ t = .n32

end Sys2Proof.Spec

open Sys2Proof Sys2Proof.Machine Sys2Proof.Spec

/-- R94, R95: scalar arithmetic appends Finish of its exact value, for every type, clamp, scale and modifier. The model's choices
and readings in it: notes/assumptions 77, 101. -/
def Obligations.ScalarArithmetic : Prop :=
  ∀ (s : State) (h : Hdr) (x : FmtA) (a b c : Word), Runs s h →
    (Reads s [sc x.opa] [.s a] →
      Does (.sqrt h x) s [fin x (numSqrt (opv x x.opa a)).1] ((numSqrt (opv x x.opa a)).2 ||| finFl x (numSqrt (opv x x.opa a)).1) ∧
      Does (.mov h x) s [fin x (if (opv x x.opa a).isNan then .nan false else opv x x.opa a)]
        (flagIf (opv x x.opa a).isSig fINV ||| finFl x (if (opv x x.opa a).isNan then .nan false else opv x x.opa a))) ∧
    (Reads s [sc x.opa, sc x.opb] [.s a, .s b] →
      let p := opv x x.opa a
      let q := opv x x.opb b
      Does (.add h x) s [fin x (Machine.Num.sum [p, q]).1] ((Machine.Num.sum [p, q]).2 ||| finFl x (Machine.Num.sum [p, q]).1) ∧
      Does (.sub h x) s [fin x (Machine.Num.sum [p, q.neg]).1] ((Machine.Num.sum [p, q.neg]).2 ||| finFl x (Machine.Num.sum [p, q.neg]).1) ∧
      Does (.mul h x) s [fin x (Machine.Num.mul p q).1] ((Machine.Num.mul p q).2 ||| finFl x (Machine.Num.mul p q).1) ∧
      Does (.mulh h x) s [fin x (Machine.Num.ofInt (p.sn * q.sn / (2 ^ (tyA x).width : Nat)))]
        (finFl x (Machine.Num.ofInt (p.sn * q.sn / (2 ^ (tyA x).width : Nat)))) ∧
      Does (.div h x) s [fin x (divNum (tyA x) p q).1] ((divNum (tyA x) p q).2 ||| finFl x (divNum (tyA x) p q).1) ∧
      Does (.rem h x) s [fin x (Machine.Num.ofInt (remInt p.sn q.sn))] (finFl x (Machine.Num.ofInt (remInt p.sn q.sn))) ∧
      Does (.min h x) s [fin x (Machine.Num.min p q).1] ((Machine.Num.min p q).2 ||| finFl x (Machine.Num.min p q).1) ∧
      Does (.max h x) s [fin x (Machine.Num.max p q).1] ((Machine.Num.max p q).2 ||| finFl x (Machine.Num.max p q).1)) ∧
    (Reads s [sc x.opa, sc x.opb, sc x.opc] [.s a, .s b, .s c] →
      let r := Machine.Num.fma (opv x x.opa a) (opv x x.opb b) (opv x x.opc c)
      Does (.mad h x) s [fin x r.1] (r.2 ||| finFl x r.1))

/-- R77, R81, R95-R97: on 64-bit integers without clamp, scale and modifiers, arithmetic is arithmetic modulo 2^64: signed and
natural quotients truncate, a divisor 0 gives all ones and leaves the dividend as remainder, and no flag is raised. -/
def Obligations.WordArithmetic : Prop :=
  ∀ (s : State) (h : Hdr) (x : FmtA) (a b c : Word), Runs s h →
    (Reads s [sc x.opa, sc x.opb] [.s a, .s b] → plainA x 0x08 ∨ plainA x 0x09 →
      Does (.add h x) s [.s (a + b)] ∧ Does (.sub h x) s [.s (a - b)] ∧ Does (.mul h x) s [.s (a * b)]) ∧
    (Reads s [sc x.opa, sc x.opb, sc x.opc] [.s a, .s b, .s c] → plainA x 0x08 ∨ plainA x 0x09 →
      Does (.mad h x) s [.s (a * b + c)]) ∧
    (Reads s [sc x.opa, sc x.opb] [.s a, .s b] → plainA x 0x09 →
      Does (.div h x) s [.s (if b = 0 then BitVec.allOnes 64 else a / b)] ∧
      Does (.rem h x) s [.s (if b = 0 then a else a % b)] ∧
      Does (.mulh h x) s [.s (((a.zeroExtend 128 * b.zeroExtend 128) >>> 64).setWidth 64)] ∧
      Does (.min h x) s [.s (if a ≤ b then a else b)] ∧
      Does (.max h x) s [.s (if a ≤ b then b else a)]) ∧
    (Reads s [sc x.opa, sc x.opb] [.s a, .s b] → plainA x 0x08 →
      Does (.div h x) s [.s (if b = 0 then BitVec.allOnes 64 else a.sdiv b)] ∧
      Does (.rem h x) s [.s (if b = 0 then a else a.srem b)] ∧
      Does (.mulh h x) s [.s (((a.signExtend 128 * b.signExtend 128) >>> 64).setWidth 64)] ∧
      Does (.min h x) s [.s (if a.sle b then a else b)] ∧
      Does (.max h x) s [.s (if a.sle b then b else a)]) ∧
    (Reads s [sc x.opa] [.s a] → plainA x 0x08 ∨ plainA x 0x09 → Does (.mov h x) s [.s a])

/-- R95, R98, R101, R105: the bitwise instructions, the shifts and `lea`. A count is read in all 64 bits, whatever the type. -/
def Obligations.ScalarBitsAndShifts : Prop :=
  ∀ (s : State) (h : Hdr) (x : FmtA) (a b c : Word), Runs s h → isZ (tyA x) ∨ tyA x = .f32 →
    (Reads s [sc x.opa, sc x.opb] [.s a, .s b] → isZ (tyA x) →
      Does (.and_ h x) s [.s (written (tyA x) (a &&& b))] ∧
      Does (.or_ h x) s [.s (written (tyA x) (a ||| b))] ∧
      Does (.xor_ h x) s [.s (written (tyA x) (a ^^^ b))] ∧
      Does (.andn h x) s [.s (written (tyA x) (a &&& ~~~b))] ∧
      Does (.lea h x) s [.s (a + b * (if (tyA x).width = 64 then 8 else 4))] ∧
      ((tyA x).width = 64 →
        Does (.shl h x) s [.s (if 64 ≤ b.toNat then 0 else a <<< b.toNat)] ∧ Does (.shr h x) s [.s (if 64 ≤ b.toNat then 0 else a >>> b.toNat)] ∧ Does (.sar h x) s [.s (a.sshiftRight b.toNat)] ∧
        Does (.rotl h x) s [.s (a.rotateLeft (b.toNat % 64))]) ∧
      ((tyA x).width = 32 →
        let a32 := a.setWidth 32
        let up := fun (r : BitVec 32) => written (tyA x) (r.zeroExtend 64)
        Does (.shl h x) s [.s (up (if 32 ≤ b.toNat then 0 else a32 <<< b.toNat))] ∧ Does (.shr h x) s [.s (up (if 32 ≤ b.toNat then 0 else a32 >>> b.toNat))] ∧
        Does (.sar h x) s [.s (up (a32.sshiftRight b.toNat))] ∧
        Does (.rotl h x) s [.s (up (a32.rotateLeft (b.toNat % 32)))])) ∧
    (Reads s [sc x.opa, sc x.opb, sc x.opc] [.s a, .s b, .s c] →
      Does (.sel h x) s [.s (written (tyA x) (if c.toNat % 2 ^ (tyA x).width = 0 then b else a))])

/-- R99, R100, R102, R103: bit counts by what they count, comparison, bit fields and the bit network bit by bit. -/
def Obligations.ScalarCountsAndFields : Prop :=
  ∀ (s : State) (h : Hdr) (x : FmtA) (a b c : Word), Runs s h →
    let w := (tyA x).width
    let v := a.toNat % 2 ^ w
    (Reads s [sc x.opa] [.s a] → isZ (tyA x) →
      (∃ n, Does (.clz h x) s [.s (BitVec.ofNat 64 n)] ∧ n ≤ w ∧ v < 2 ^ (w - n) ∧ (n < w → 2 ^ (w - n - 1) ≤ v)) ∧
      (∃ n, Does (.ctz h x) s [.s (BitVec.ofNat 64 n)] ∧ n ≤ w ∧ 2 ^ n ∣ v ∧ (n < w → ¬ 2 ^ (n + 1) ∣ v)) ∧
      Does (.popc h x) s [.s (BitVec.ofNat 64 ((List.range w).countP fun i => a.getLsbD i))]) ∧
    (Reads s [sc x.opa, sc x.opb] [.s a, .s b] → plainA x 0x08 →
      Does (.cmp3 h x) s [.s (if a.slt b then -1 else if a = b then 0 else 1)]) ∧
    (Reads s [sc x.opa, sc x.opb] [.s a, .s b] → plainA x 0x09 →
      Does (.cmp3 h x) s [.s (if a < b then -1 else if a = b then 0 else 1)]) ∧
    (Reads s [sc x.opa, sc x.opb] [.s a, .s b] →
      Does (.cmp3 h x) s [.s (BitVec.ofInt 64 (cmpNum (opv x x.opa a) (opv x x.opb b)))]
        (flagIf ((opv x x.opa a).isSig || (opv x x.opb b).isSig) fINV)) ∧
    (Reads s [sc x.opa, sc x.opb] [.s a, .s b] → isZ (tyA x) →
      ∃ r, Does (.bfx h x) s [.s r] ∧ r = written (tyA x) r ∧ ∀ j, j < w →
        let lsb := b.toNat % 64
        let len := b.toNat / 256 % 128
        let e := written (tyA x) a
        let bit := fun k => if lsb + k ≤ 63 then e.getLsbD (lsb + k) else Ty.isSigned (tyA x) && e.getLsbD 63
        r.getLsbD j = (if len = 0 then false else if j < len then bit j else Ty.isSigned (tyA x) && bit (len - 1))) ∧
    (Reads s [sc x.opa, sc x.opb, sc x.opc] [.s a, .s b, .s c] → isZ (tyA x) →
      ∃ r, Does (.bfi h x) s [.s r] ∧ r = written (tyA x) r ∧ ∀ j, j < w →
        let lsb := c.toNat % 64
        let len := c.toNat / 256 % 128
        r.getLsbD j = (if lsb ≤ j ∧ j < lsb + len then b.getLsbD (j - lsb) else a.getLsbD j)) ∧
    (Reads s [sc x.opa] [.s a] →
      ∃ r, Does (.bnet h x) s [.s r] ∧ ∀ j, j < 64 →
        let p := ((patternOf s x.typ.toNat).extractLsb' (8 * j) 8)
        r.getLsbD j = (!p.getLsbD 7 && (a.getLsbD (p.extractLsb' 0 6).toNat != p.getLsbD 6)))

/-- R82, R104: `cvt` to an integer type saturates and never wraps, whatever it converts from; INV is raised exactly by NaN and by
a source out of range, before it is rounded. The model's choices and readings in it: notes/assumptions 77. -/
def Obligations.ConvertScalar : Prop :=
  ∀ (s : State) (h : Hdr) (x : FmtA) (a : Word), Runs s h → Reads s [sc x.opa] [.s a] →
    let src := (scalarNum (tyField x.opb) x.opa a).scale (sclOf x)
    (∃ r fl, Does (.cvt h x) s [.s r] fl) ∧
    (isZ (tyA x) → x.clp = 0 →
      (src.isNan = true → Does (.cvt h x) s [.s 0] fINV) ∧
      (src = .inf false → Does (.cvt h x) s [.s (BitVec.ofInt 64 (tyHi (tyA x)))] fINV) ∧
      (src = .inf true → Does (.cvt h x) s [.s (BitVec.ofInt 64 (tyLo (tyA x)))] fINV) ∧
      (∀ neg n d, src = .fin neg n d →
        let v : Int := if neg then -(n : Int) else n
        (v < tyLo (tyA x) * d → Does (.cvt h x) s [.s (BitVec.ofInt 64 (tyLo (tyA x)))] fINV) ∧
        (tyHi (tyA x) * d < v → Does (.cvt h x) s [.s (BitVec.ofInt 64 (tyHi (tyA x)))] fINV) ∧
        (tyLo (tyA x) * d ≤ v → v ≤ tyHi (tyA x) * d →
          Does (.cvt h x) s [.s (BitVec.ofInt 64 (rneInt neg n d).1)] (flagIf (n % d != 0) fNX)))) ∧
    (tyA x = .f32 →
      let r := roundFloat .f32 src
      Does (.cvt h x) s [.s (BitVec.ofNat 64 (clampFloat .f32 x.clp.toNat r.1))]
        (r.2 ||| flagIf (scalarNum (tyField x.opb) x.opa a).isSig fINV))

/-- R107: the immediates, modulo 2^64, with no flag; a vector at OPA is cause 0x02; OPA of `li` and `lf` is unused, and NEG and ABS
are clear; the rule's own words decode as it says. -/
def Obligations.Immediates : Prop :=
  (∀ (s : State) (h : Hdr) (x : FmtI) (a : Word),
    let withA := [Instr.lih h x, .addi h x, .andi h x, .ori h x, .xori h x, .shli h x, .shri h x, .sari h x]
    (Runs s h →
      Does (.li h x) s [.s (x.imm.signExtend 64)] ∧
      Does (.lf h x) s [.s (x.imm.zeroExtend 64)] ∧
      (Reads s [sc x.opa] [.s a] →
        Does (.lih h x) s [.s ((a.setWidth 32) ++ x.imm)] ∧
        Does (.addi h x) s [.s (a + x.imm.signExtend 64)] ∧
        Does (.andi h x) s [.s (a &&& x.imm.signExtend 64)] ∧
        Does (.ori h x) s [.s (a ||| x.imm.zeroExtend 64)] ∧
        Does (.xori h x) s [.s (a ^^^ x.imm.zeroExtend 64)] ∧
        Does (.shli h x) s [.s (if 64 ≤ x.imm.toNat then 0 else a <<< x.imm.toNat)] ∧
        Does (.shri h x) s [.s (if 64 ≤ x.imm.toNat then 0 else a >>> x.imm.toNat)] ∧
        Does (.sari h x) s [.s (a.sshiftRight x.imm.toNat)])) ∧
    (Runs s h ∨ Disabled s h → NamesVector s x.opa → ∀ k ∈ withA, exec k s = .next (raise s (wordTrap s.th 0x02))) ∧
    (¬ plain x.opa → ∀ k ∈ withA, ¬ k.WellFormed) ∧
    (x.opa ≠ 0 → ¬ (Instr.li h x).WellFormed ∧ ¬ (Instr.lf h x).WellFormed)) ∧
  let h : Hdr := { stg := 0, grd := 127, gsn := 0 }
  decode [0x3001FC000000000A] = .ok (.li h { opa := 0, imm := 10 }) ∧
  decode [0x3021FC0000000005] = .ok (.addi h { opa := 0, imm := 5 }) ∧
  decode [0x3011FC0000005678] = .ok (.lih h { opa := 0, imm := 0x5678 }) ∧
  decode [0x3091FC003FC00000] = .ok (.lf h { opa := 0, imm := 0x3FC00000 })

namespace Sys2Proof.Spec

open Sys2Proof Sys2Proof.Machine

/-- The rational a finite exact value stands for. -/
def ratOf : Machine.Num → Option ℚ
  | .fin b n d => some (if b then -((n : ℚ) / d) else n / d)
  | _ => none

/-- A floating type of vector lanes. -/
def isF (t : Ty) : Prop := t = .f16 ∨ t = .bf16 ∨ t = .f32

end Sys2Proof.Spec

open Sys2Proof Sys2Proof.Machine Sys2Proof.Spec

/-- R79: a finite value is rounded to a nearest value of its type: where the result is finite, no finite value of the type lies
closer, and of two that lie equally close it is the one with an even fraction. -/
def Sys2Proof.Spec.RoundsToNearest : Prop :=
  ∀ (t : Ty) (neg : Bool) (n d : Nat), isF t → 0 < d →
    ∀ x r, ratOf (.fin neg n d) = some x → ratOf (floatOf t (roundFloat t (.fin neg n d)).1) = some r →
      ∀ (y : Nat) (q : ℚ), ratOf (floatOf t y) = some q →
        |x - r| ≤ |x - q| ∧ (q ≠ r → |x - q| = |x - r| → (roundFloat t (.fin neg n d)).1 % 2 = 0)

/-- R79, R80: overflow and underflow. A finite value whose rounding would pass the largest finite value becomes an infinity of its
sign with OF and NX; any other raises NX exactly where it is not exact, and UF where it is also tiny: less than the least normal
value once rounded with the exponent unbounded. -/
def Sys2Proof.Spec.RoundingFlags : Prop :=
  ∀ (t : Ty) (neg : Bool) (n d : Nat), isF t → 0 < d → ∀ x, ratOf (.fin neg n d) = some x →
    let res := roundFloat t (.fin neg n d)
    let bias : Int := fmtBias t
    let mb : Int := (fmtOf t).2
    let most : ℚ := 2 ^ (bias + 1) - 2 ^ (bias - mb - 1)
    let tiny : ℚ := 2 ^ (1 - bias) - 2 ^ (1 - bias - mb - 2)
    (most ≤ |x| → floatOf t res.1 = .inf neg ∧ res.2 = fOF ||| fNX) ∧
    (|x| < most → ∃ r, ratOf (floatOf t res.1) = some r ∧
      res.2 = flagIf (decide (r ≠ x)) fNX ||| flagIf (decide (r ≠ x) && decide (|x| < tiny)) fUF)

/-- R77, R79, R83, R95, R111: the special cases of floating arithmetic, for every floating type: a NaN on either side makes a NaN,
and only a signalling one raises INV; the number wins in min and max; ∞ − ∞, 0 × ∞ and 0 ÷ 0 are invalid, 0 × ∞ of a fused sum
whatever its addend; a finite nonzero value divided by zero is infinite with DZ. -/
def Sys2Proof.Spec.SpecialValues : Prop :=
  (∀ sg (y : Machine.Num), y.isNan = false →
    Machine.Num.add (.nan sg) y = (.nan false, flagIf sg fINV) ∧ Machine.Num.mul (.nan sg) y = (.nan false, flagIf sg fINV) ∧
    Machine.Num.div (.nan sg) y = (.nan false, flagIf sg fINV) ∧ Machine.Num.min (.nan sg) y = (y, flagIf sg fINV) ∧
    Machine.Num.max (.nan sg) y = (y, flagIf sg fINV) ∧
    Machine.Num.add y (.nan sg) = (.nan false, flagIf sg fINV) ∧ Machine.Num.mul y (.nan sg) = (.nan false, flagIf sg fINV) ∧
    Machine.Num.div y (.nan sg) = (.nan false, flagIf sg fINV) ∧ Machine.Num.min y (.nan sg) = (y, flagIf sg fINV) ∧
    Machine.Num.max y (.nan sg) = (y, flagIf sg fINV)) ∧
  (∀ sg sh, ∀ f ∈ [Machine.Num.add, Machine.Num.mul, Machine.Num.div, Machine.Num.min, Machine.Num.max],
    f (.nan sg) (.nan sh) = (.nan false, flagIf (sg || sh) fINV)) ∧
  (∀ b, Machine.Num.add (.inf b) (.inf (!b)) = (.nan false, fINV) ∧ Machine.Num.add (.inf b) (.inf b) = (.inf b, 0)) ∧
  (∀ b c d, Machine.Num.mul (.inf b) (.fin c 0 d) = (.nan false, fINV) ∧ Machine.Num.mul (.fin c 0 d) (.inf b) = (.nan false, fINV)) ∧
  (∀ b c d sg, Machine.Num.fma (.inf b) (.fin c 0 d) (.nan sg) = (.nan false, fINV)) ∧
  (∀ b c d e, Machine.Num.div (.fin b 0 d) (.fin c 0 e) = (.nan false, fINV)) ∧
  (∀ b c n d e, 0 < n → Machine.Num.div (.fin b n d) (.fin c 0 e) = (.inf (b != c), fDZ)) ∧
  (∀ b n d, 0 < n → numSqrt (.fin true n d) = (.nan false, fINV) ∧ numRsqrt (.fin true n d) = (.nan false, fINV) ∧
    numLog2 (.fin true n d) = (.nan false, fINV) ∧ numRcp (.fin b 0 d) = (.inf b, fDZ) ∧ numRsqrt (.fin b 0 d) = (.inf b, fDZ) ∧
    numLog2 (.fin b 0 d) = (.inf true, fDZ) ∧ numSqrt (.fin b 0 d) = (.fin b 0 1, 0))


/-- R78-R83: rounding to nearest, ties to even, the flags of rounding, and the special values. The model's choices and readings in
it: notes/assumptions 62. -/
def Obligations.FloatRounding : Prop := RoundsToNearest ∧ RoundingFlags ∧ SpecialValues
namespace Sys2Proof.Spec

open Sys2Proof Sys2Proof.Machine

/-- `exec` appends one vector. Lane `j` of width `w` holds the low bits of `(f j).1` where the lane is enabled and 0 elsewhere
(R94), and a flag is raised exactly when some enabled lane raises it (R80). -/
def LaneWise (i : Instr) (s : State) (h : Hdr) (w : Nat) (f : Nat → Nat × Flags) : Prop :=
  ∃ v fl, Does i s [.v v] fl ∧
    (∀ j, j < lanesOf w → lane w v j = if enabledAt s.th h j then (f j).1 % 2 ^ w else 0) ∧
    (∀ k, fl.getLsbD k = true ↔ ∃ j, j < lanesOf w ∧ enabledAt s.th h j = true ∧ (f j).2.getLsbD k = true)

/-- Lane `j` of an operand of the word's type, as an exact value after ABS and NEG (R49). -/
abbrev lv (x : FmtA) (f : OpField) (a : Val) (j : Nat) : Machine.Num :=
  operandNum (tyA x) f (lane (tyA x).width (a.vec (tyA x).width) j)

/-- Finish of an exact lane value, with the flags of the operation and of the rounding (R93, R80). -/
abbrev lfin (x : FmtA) (r : Machine.Num × Flags) : Nat × Flags :=
  ((finish (tyA x) x.clp.toNat (sclOf x) r.1).1, r.2 ||| (finish (tyA x) x.clp.toNat (sclOf x) r.1).2)

/-- A type of the set Z4 of vector instructions (R109). -/
def isZ4 (t : Ty) : Prop :=
  t = .i4 ∨ t = .n4 ∨ t = .i8 ∨ t = .n8 ∨ t = .i16 ∨ t = .n16 ∨ t = .i32 ∨ t = .n32 ∨ t = .i64 ∨ t = .n64

end Sys2Proof.Spec

open Sys2Proof Sys2Proof.Machine Sys2Proof.Spec

/-- R94, R108, R109, R111: lane-wise arithmetic, for every type, clamp, scale, modifier and guard. The model's choices and readings
in it: notes/assumptions 63, 101. -/
def Obligations.VectorArithmetic : Prop :=
  ∀ (s : State) (h : Hdr) (x : FmtA) (a b c : Val),
    let w := (tyA x).width
    RunsLanes s h (lanesOf w) →
    (Reads s [vc x.opa] [a] →
      let p := fun j => lv x x.opa a j
      LaneWise (.vsqrt h x) s h w (fun j => lfin x (numSqrt (p j))) ∧
      LaneWise (.vrcp h x) s h w (fun j => lfin x (numRcp (p j))) ∧
      LaneWise (.vrsqrt h x) s h w (fun j => lfin x (numRsqrt (p j))) ∧
      LaneWise (.vexp2 h x) s h w (fun j => lfin x (numExp2 (p j))) ∧
      LaneWise (.vlog2 h x) s h w (fun j => lfin x (numLog2 (p j))) ∧
      LaneWise (.vmov h x) s h w
        (fun j => lfin x (if (p j).isNan then .nan false else p j, flagIf (p j).isSig fINV)) ∧
      LaneWise (.vli h x) s h w (fun j => lfin x (Machine.Num.add (p j) (Machine.Num.ofInt j)))) ∧
    (Reads s [vc x.opa, vc x.opb] [a, b] →
      let p := fun j => lv x x.opa a j
      let q := fun j => lv x x.opb b j
      LaneWise (.vadd h x) s h w (fun j => lfin x (Machine.Num.sum [p j, q j])) ∧
      LaneWise (.vsub h x) s h w (fun j => lfin x (Machine.Num.sum [p j, (q j).neg])) ∧
      LaneWise (.vmul h x) s h w (fun j => lfin x (Machine.Num.mul (p j) (q j))) ∧
      LaneWise (.vmulh h x) s h w (fun j => lfin x (Machine.Num.ofInt ((p j).sn * (q j).sn / (2 ^ w : Nat)), 0)) ∧
      LaneWise (.vdiv h x) s h w (fun j => lfin x (divNum (tyA x) (p j) (q j))) ∧
      LaneWise (.vmin h x) s h w (fun j => lfin x (Machine.Num.min (p j) (q j))) ∧
      LaneWise (.vmax h x) s h w (fun j => lfin x (Machine.Num.max (p j) (q j)))) ∧
    (Reads s [vc x.opa, vc x.opb, vc x.opc] [a, b, c] →
      LaneWise (.vmad h x) s h w (fun j => lfin x (Machine.Num.fma (lv x x.opa a j) (lv x x.opb b j) (lv x x.opc c j))))

/-- R81, R97, R109: integer lanes without clamp, scale and modifiers wrap modulo 2^w, raise no flag, and are compared as their
type says. -/
def Obligations.IntegerLanes : Prop :=
  ∀ (s : State) (h : Hdr) (x : FmtA) (a b c : Val),
    let w := (tyA x).width
    let p := fun j => lane w (a.vec w) j
    let q := fun j => lane w (b.vec w) j
    let le := fun j => if Ty.isSigned (tyA x) then decide (signedOf w (p j) ≤ signedOf w (q j)) else decide (p j ≤ q j)
    RunsLanes s h (lanesOf w) → isZ4 (tyA x) → x.clp = 0 → x.scl = 0 → plain x.opa → plain x.opb → plain x.opc →
    (Reads s [vc x.opa, vc x.opb] [a, b] →
      LaneWise (.vadd h x) s h w (fun j => (p j + q j, 0)) ∧
      LaneWise (.vsub h x) s h w (fun j => (p j + (2 ^ w - q j), 0)) ∧
      LaneWise (.vmul h x) s h w (fun j => (p j * q j, 0)) ∧
      LaneWise (.vmin h x) s h w (fun j => (if le j then p j else q j, 0)) ∧
      LaneWise (.vmax h x) s h w (fun j => (if le j then q j else p j, 0))) ∧
    (Reads s [vc x.opa, vc x.opb, vc x.opc] [a, b, c] →
      LaneWise (.vmad h x) s h w (fun j => (p j * q j + lane w (c.vec w) j, 0)))

/-- R98, R101, R103, R109, R110: lane-wise bits: logic, shifts with a natural count, selection, counts and the bit network. -/
def Obligations.VectorBits : Prop :=
  ∀ (s : State) (h : Hdr) (x : FmtA) (a b c : Val),
    let w := (tyA x).width
    let p := fun j => lane w (a.vec w) j
    let q := fun j => lane w (b.vec w) j
    (RunsLanes s h (lanesOf w) →
      (Reads s [vc x.opa, vc x.opb] [a, b] →
        LaneWise (.vand h x) s h w (fun j => (p j &&& q j, 0)) ∧
        LaneWise (.vor h x) s h w (fun j => (p j ||| q j, 0)) ∧
        LaneWise (.vxor h x) s h w (fun j => (p j ^^^ q j, 0)) ∧
        LaneWise (.vshl h x) s h w (fun j => (if q j < w then p j * 2 ^ q j else 0, 0)) ∧
        LaneWise (.vshr h x) s h w (fun j => (if q j < w then p j / 2 ^ q j else 0, 0)) ∧
        LaneWise (.vsar h x) s h w
          (fun j => ((signedOf w (p j) / (2 ^ Nat.min (q j) w : Nat) % (2 ^ w : Nat)).toNat, 0))) ∧
      (Reads s [vc x.opa, vc x.opb, vc x.opc] [a, b, c] →
        LaneWise (.vsel h x) s h w (fun j => (if lane w (c.vec w) j = 0 then q j else p j, 0))) ∧
      (Reads s [vc x.opa] [a] →
        LaneWise (.vpopc h x) s h w (fun j => ((List.range w).countP fun k => (p j).testBit k, 0)) ∧
        LaneWise (.vclz h x) s h w (fun j => (if p j = 0 then w else w - 1 - Nat.log2 (p j), 0)))) ∧
    (RunsLanes s h 64 → Reads s [vc x.opa] [a] →
      ∃ f : Nat → Nat, LaneWise (.vbnet h x) s h 64 (fun j => (f j, 0)) ∧ ∀ j k, j < 64 → k < 64 →
        let e := (patternOf s x.typ.toNat).extractLsb' (8 * k) 8
        (f j).testBit k = (!e.getLsbD 7 && ((lane 64 (a.vec 64) j).testBit (e.extractLsb' 0 6).toNat != e.getLsbD 6)))

/-- R118: the lane movers. `Concat` numbers the lanes of a and then those of c; a lane number past it gives 0. -/
def Sys2Proof.Spec.VectorMoves : Prop :=
  ∀ (s : State) (h : Hdr) (x : FmtA) (a b c : Val) (k : Word),
    let w := (tyA x).width
    let n := lanesOf w
    let p := fun j => lane w (a.vec w) j
    let q := fun j => lane w (b.vec w) j
    let cat := fun j => if j < n then p j else if j < 2 * n then lane w (c.vec w) (j - n) else 0
    RunsLanes s h n →
    (Reads s [vc x.opa, vc x.opb, vc x.opc] [a, b, c] → LaneWise (.vperm h x) s h w (fun j => (cat (q j), 0))) ∧
    (Reads s [vc x.opa, sc x.opb] [a, .s k] →
      LaneWise (.vbcast h x) s h w (fun _ => (if k.toNat < n then p k.toNat else 0, 0))) ∧
    (Reads s [vc x.opa, sc x.opb, vc x.opc] [a, .s k, c] → LaneWise (.vslide h x) s h w (fun j => (cat (j + k.toNat), 0))) ∧
    (Reads s [vc x.opa, vc x.opb] [a, b] →
      ∃ u v, Does (.vtrn h x) s [.v u, .v v] ∧ ∀ j, j < n →
        lane w u j = (if enabledAt s.th h j then (if j % 2 = 0 then p j else q (j - 1)) else 0) ∧
        lane w v j = (if enabledAt s.th h j then (if j % 2 = 0 then p (j + 1) else q j) else 0))

/-- R84, R85, R112-R115: conversions between lanes. Widening sends source element j to vector j mod m at lane j div m; narrowing
takes result lane j from position j mod m, counted oldest first, at element j div m. -/
def Sys2Proof.Spec.VectorConversions : Prop :=
  ∀ (s : State) (h : Hdr) (x : FmtA) (a : Val) (vs : List Val) (r : Val),
    let wt := (tyA x).width
    let wf := (tyField x.opb).width
    let cv := fun (e : Nat) => convert (tyA x) x.clp.toNat (sclOf x) (operandNum (tyField x.opb) x.opa e)
    (RunsLanes s h (lanesOf wt) → Reads s [vc x.opa] [a] → LaneWise (.vcvt h x) s h wt (fun j => cv (lane wt (a.vec wt) j))) ∧
    (RunsLanes s h (lanesOf wf) → Reads s [vc x.opa] [a] → wt = 2 * wf ∨ wt = 4 * wf →
      ∃ out fl, Does (.vwid h x) s out fl ∧ out.length = wt / wf ∧ out.all (·.isVec) = true ∧
        ∀ j, j < lanesOf wf → lane wt ((out.getD (j % (wt / wf)) (.s 0)).vec wt) (j / (wt / wf)) =
          if enabledAt s.th h j then (cv (lane wf (a.vec wf) j)).1 % 2 ^ wt else 0) ∧
    (RunsLanes s h (lanesOf wt) → getRun s.th x.opa (wf / wt) = .ok vs → vs.any (·.isLost) = false →
      LaneWise (.vpack h x) s h wt
        (fun j => cv (lane wf ((vs.getD (j % (wf / wt)) (.s 0)).vec wf) (j / (wf / wt))))) ∧
    (RunsLanes s h 256 → getRun s.th x.opa 2 = .ok vs → getOp s.th .v x.opb = .ok r →
      (vs ++ [r]).any (·.isLost) = false →
      LaneWise (.vcvtsr h x) s h 16
        (fun j => stochastic (lane 32 ((vs.getD (j % 2) (.s 0)).vec 32) (j / 2)) (lane 16 (r.vec 16) j)))

/-- R116, R117, R122: sums. `vred` finishes the exact sum of the enabled lanes once, in 64 bits or f32; each prefix of `vscan` is
finished from its own exact sum; a lane of `vdot4` is four products and an addend. -/
def Sys2Proof.Spec.VectorSums : Prop :=
  ∀ (s : State) (h : Hdr) (x : FmtA) (a b c : Val),
    let w := (tyA x).width
    let nums := fun (m : Nat) => ((List.range m).filter fun j => enabledAt s.th h j).map fun j => lv x x.opa a j
    (RunsLanes s h (lanesOf w) → Reads s [vc x.opa] [a] →
      let t : Ty := if (tyA x).isFloat then .f32 else if Ty.isSigned (tyA x) then .i64 else .n64
      let e := Machine.Num.sum (nums (lanesOf w))
      let y := finish t x.clp.toNat (sclOf x) e.1
      Does (.vred h x) s [.s (scalarOf t y.1)] (e.2 ||| y.2)) ∧
    (RunsLanes s h (lanesOf w) → Reads s [vc x.opa] [a] →
      LaneWise (.vscan h x) s h w (fun j => lfin x (Machine.Num.sum (nums (j + 1))))) ∧
    (RunsLanes s h 128 → Reads s [vc x.opa, vc x.opb, vc x.opc] [a, b, c] → tyA x = .i8 ∨ tyA x = .n8 →
      let tr : Ty := if tyA x = .i8 then .i32 else .n32
      let prod := fun j k => (Machine.Num.mul (operandNum (tyA x) x.opa (lane 8 (a.vec 8) (4 * j + k)))
        (operandNum (tyA x) x.opb (lane 8 (b.vec 8) (4 * j + k)))).1
      LaneWise (.vdot4 h x) s h 32 (fun j => finish tr x.clp.toNat (sclOf x)
        (Machine.Num.sum [prod j 0, prod j 1, prod j 2, prod j 3, operandNum tr x.opc (lane 32 (c.vec 32) j)]).1))

/-- R87, R119-R121: quantising to and from microscaling codes, and the bitmap of zero runs. -/
def Sys2Proof.Spec.VectorMicroscaling : Prop :=
  ∀ (s : State) (h : Hdr) (x : FmtA) (a : Val) (e m m2 : Word),
    let w := (tyA x).width
    (RunsLanes s h (lanesOf w) → Reads s [vc x.opa, sc x.opb] [a, .s e] → (tyField x.opc).isMx = true →
      LaneWise (.vmxdq h x) s h w (fun j =>
        let code := lane (tyField x.opc).width (a.vec (tyField x.opc).width) j
        let b := mxBits (tyField x.opc)
        let scale := (e.extractLsb' (8 * (j / 32)) 8).toNat
        finish (tyA x) x.clp.toNat (sclOf x)
          (if scale = 0xFF then .nan false
           else (Machine.Num.ofInt (signedOf b code)).scale ((scale : Int) - 127 - (b - 2 : Nat))))) ∧
    (let tf := tyField x.opb
     let n := lanesOf tf.width
     let grp := fun g => quantGroup (tyA x) ((List.range 32).map fun j =>
       if enabledAt s.th h (32 * g + j) then some (operandNum tf x.opa (lane tf.width (a.vec tf.width) (32 * g + j)))
       else none)
     RunsLanes s h n → Reads s [vc x.opa] [a] → (tyA x).isMx = true → isF tf →
       ∃ codes scales fl, Does (.vmxq h x) s [.v codes, .s scales] fl ∧
         (∀ j, j < n → j < lanesOf w → lane w codes j = (grp (j / 32)).2.1.getD (j % 32) 0 % 2 ^ w) ∧
         (∀ g, g < n / 32 → (scales.extractLsb' (8 * g) 8).toNat = (grp g).1 % 256)) ∧
    (let zero := fun j => enabledAt s.th h j = false ∨ laneZero (tyA x) (lane w (a.vec w) j) = true
     stageAct s.th h.stg.toNat = .run → guardLost s.th h = false →
       (w ≠ 4 → Reads s [vc x.opa, sc x.opb] [a, .s m] →
         ∃ r, Does (.vbmap h x) s [.s r] ∧ ∀ j, j < 64 →
           (r.getLsbD j = true ↔ m.getLsbD j = true ∧ 8 * j + 8 ≤ lanesOf w ∧ ∀ k, k < 8 → zero (8 * j + k))) ∧
       (w = 4 → Reads s [vc x.opa, sc x.opb, sc x.opc] [a, .s m, .s m2] →
         ∃ r r2, Does (.vbmap h x) s [.s r, .s r2] ∧ ∀ j, j < 64 →
           (r.getLsbD j = true ↔ m.getLsbD j = true ∧ ∀ k, k < 8 → zero (8 * j + k)) ∧
           (r2.getLsbD j = true ↔ m2.getLsbD j = true ∧ ∀ k, k < 8 → zero (512 + 8 * j + k))))

namespace Sys2Proof.Spec

open Sys2Proof Sys2Proof.Machine

/-- An operand of a modular instruction as an integer: NEG negates, ABS changes nothing (R86). -/
abbrev mo (f : OpField) (v : Nat) : Int := if f.getLsbD 8 then -(v : Int) else v

/-- One lane of a modular instruction: a canonical residue of each output, or zeros and MODINV (R86, R152). -/
def Residues (q : Nat) (outs : List Int) (res : List Nat) (fl : Flags) : Prop :=
  res.length = outs.length ∧
    ((q % 2 = 1 ∧ 3 ≤ q ∧ q < 2 ^ 62) →
      fl = 0 ∧ ∀ i, i < outs.length → res.getD i 0 < q ∧ ((res.getD i 0 : Int) - outs.getD i 0) % q = 0) ∧
    (¬ (q % 2 = 1 ∧ 3 ≤ q ∧ q < 2 ^ 62) → fl = fMOD ∧ ∀ i, res.getD i 0 = 0)

/-- A modular instruction on scalars appends its residues; on vectors, lane by lane, those of each lane (R151, R152). -/
def Modular (i : Instr) (s : State) (h : Hdr) (x : FmtA) (fs : List OpField) (outs : List Int → List Int) : Prop :=
  let q := (tget s.th.mods (x.scl.extractLsb' 0 3).toNat 0).toNat
  ∀ vs, Reads s (fs.map fun f => (Need.e, f)) vs →
    (vs.all (fun v => !v.isVec) = true → Runs s h →
      ∃ res fl, Does i s (res.map fun r => Val.s (BitVec.ofNat 64 r)) fl ∧
        Residues q (outs (List.zipWith (fun f v => mo f (Val.word v).toNat) fs vs)) res fl) ∧
    (vs.any (·.isVec) = true → RunsLanes s h 64 →
      ∃ out fl, Does i s out fl ∧ out.all (·.isVec) = true ∧
        ∀ j, j < 64 →
          (enabledAt s.th h j = true → Residues q (outs (List.zipWith (fun f v => mo f (lane 64 (Val.vec 64 v) j)) fs vs))
            (out.map fun v => lane 64 (Val.vec 64 v) j) fl) ∧
          (enabledAt s.th h j = false → ∀ v ∈ out, lane 64 (Val.vec 64 v) j = 0))

end Sys2Proof.Spec

open Sys2Proof Sys2Proof.Machine Sys2Proof.Spec

/-- R86, R151, R152: every modular result is the canonical residue of its exact value, whatever the size of the operands; an
invalid modulus gives zeros and MODINV. `mqset` writes the slot and appends nothing. -/
def Obligations.ModularResidues : Prop :=
  ∀ (s : State) (h : Hdr) (x : FmtA),
    Modular (.mqadd h x) s h x [x.opa, x.opb] (fun l => [l.getD 0 0 + l.getD 1 0]) ∧
    Modular (.mqsub h x) s h x [x.opa, x.opb] (fun l => [l.getD 0 0 - l.getD 1 0]) ∧
    Modular (.mqmul h x) s h x [x.opa, x.opb] (fun l => [l.getD 0 0 * l.getD 1 0]) ∧
    Modular (.mqmac h x) s h x [x.opa, x.opb, x.opc] (fun l => [l.getD 0 0 * l.getD 1 0 + l.getD 2 0]) ∧
    Modular (.mqred h x) s h x [x.opa] (fun l => [l.getD 0 0]) ∧
    Modular (.mqbct h x) s h x [x.opa, x.opb, x.opc]
      (fun l => [l.getD 0 0 + l.getD 2 0 * l.getD 1 0, l.getD 0 0 - l.getD 2 0 * l.getD 1 0]) ∧
    Modular (.mqbgs h x) s h x [x.opa, x.opb, x.opc]
      (fun l => [l.getD 0 0 + l.getD 1 0, (l.getD 0 0 - l.getD 1 0) * l.getD 2 0]) ∧
    (∀ a, Runs s h → Reads s [sc x.opa] [.s a] →
      exec (.mqset h x) s = .next (s.setTh
        { finishThread s.th [] 0 with mods := tput 0 s.th.mods (x.scl.extractLsb' 0 3).toNat a }))


/-- Moves between lanes and vectors, and conversions of lanes. The model's choices and readings in it: notes/assumptions 77. -/
def Obligations.VectorMovesAndConversions : Prop := VectorMoves ∧ VectorConversions

/-- Sums over lanes, and microscaled vectors. The model's choices and readings in it: notes/assumptions 24, 77. -/
def Obligations.VectorSumsAndScales : Prop := VectorSums ∧ VectorMicroscaling
namespace Sys2Proof.Spec

open Sys2Proof Sys2Proof.Machine

/-- An effect outside an access thread does not wait for queue loads (R196). -/
def Free (s : State) : Prop := isExe s.cur = true ∨ loadsPending s (coreOf s.cur) = false

/-- No lost data among these (R292). -/
def Kept (s : State) (l : List Lost) : Prop := ∀ x ∈ l, s.th.lost.contains x = false

/-- The comparison result meets a condition code of `pcmp` (R64, R237); `c` is that of R100. -/
def meets (code : Nat) (c : Int) : Bool :=
  match code with
  | 0 => c == 0
  | 1 => c != 0
  | 2 => c == -1
  | 3 => c == -1 || c == 0
  | 4 => c == 1
  | 5 => c == 1 || c == 0
  | 6 => c == 2
  | _ => c != 2

/-- The current thread after it has appended nothing and gone on at the next word. -/
abbrev went (s : State) (fl : Flags := 0) : Thread := finishThread s.th [] fl

/-- The thread enters `target`, as a transfer leaves it; the window is given newest first. -/
def Enters (i : Instr) (s : State) (target : Word) (window : List Val) (frames : List Frame) : Prop :=
  exec i s = .next (s.setTh { went s with pc := target, window, frames, blk := none, entered := true })

end Sys2Proof.Spec

open Sys2Proof Sys2Proof.Machine Sys2Proof.Spec

/-- R236: the slot instructions and `keep`: run, disabled, and the causes of a vector at `sput` and of a run past the window; the
rule's own words decode as it says. The model's choices and readings in it: notes/assumptions 64. -/
def Obligations.Slots : Prop :=
  (∀ (s : State) (h : Hdr) (x : FmtS) (a : Word) (v : Val) (run : List Val),
    (Runs s h →
      (x.aux.toNat < 64 →
        (Kept s [.sslot x.aux.toNat] → Does (.sget h x) s [.s (tget s.th.sslots x.aux.toNat 0)]) ∧
        (Kept s [.vslot x.aux.toNat] → Does (.vget h x) s [.v (tget s.th.vslots x.aux.toNat 0)])) ∧
      (Reads s [sc x.opa] [.s a] →
        exec (.sput h x) s = .next (s.setTh { went s with
          sslots := tput 0 s.th.sslots x.dst.toNat a, lost := s.th.lost.filter (· != .sslot x.dst.toNat) })) ∧
      (Reads s [vc x.opa] [v] →
        exec (.vput h x) s = .next (s.setTh { went s with
          vslots := tput 0 s.th.vslots x.dst.toNat (v.vec 64), lost := s.th.lost.filter (· != .vslot x.dst.toNat) })) ∧
      (getRun s.th x.opa x.aux.toNat = .ok run → run.any (·.isLost) = false → Does (.keep h x) s run)) ∧
    (Disabled s h →
      Does (.sget h x) s [.s 0] ∧ Does (.vget h x) s [.v 0] ∧
      (getOps s.th [sc x.opa] = .ok [v] → Does (.sput h x) s []) ∧
      (getOps s.th [vc x.opa] = .ok [v] → Does (.vput h x) s []) ∧
      (getRun s.th x.opa x.aux.toNat = .ok run → Does (.keep h x) s (run.map fun v => if v.isVec then .v 0 else .s 0))) ∧
    (Runs s h ∨ Disabled s h →
      (NamesVector s x.opa → exec (.sput h x) s = .next (raise s (wordTrap s.th 0x02))) ∧
      (s.th.window.length < (x.opa.extractLsb' 0 6).toNat + x.aux.toNat → 0 < x.aux.toNat →
        exec (.keep h x) s = .next (raise s (wordTrap s.th 0x03)))) ∧
    (x.opa.getLsbD 6 = true → ¬ (Instr.keep h x).WellFormed)) ∧
  (∀ (w : Word) (j : Nat), j < 64 → lane 64 (Val.vec 64 (.s w)) j = w.toNat) ∧
  let h : Hdr := { stg := 0, grd := 127, gsn := 0 }
  decode [0x5011FC0000050000] = .ok (.sput h { opa := 0, opb := 0, dst := 5, aux := 0 }) ∧
  decode [0x5041FC0200000002] = .ok (.keep h { opa := 2, opb := 0, dst := 0, aux := 2 })

/-- R238: predicate logic acts on all 1,024 bits at once; source numbers 96 to 127 are reserved; a disabled form leaves its
predicate. -/
def Sys2Proof.Spec.PredicateLogic : Prop :=
  ∀ (s : State) (h : Hdr) (x : FmtS),
    let p := fun n => tget s.th.preds n 0
    let m := (x.aux.extractLsb' 0 7).toNat
    let n := (x.aux.extractLsb' 8 7).toNat
    let put := fun (i : Instr) (r : Pred) => exec i s = .next (s.setTh { went s with
      preds := tput 0 s.th.preds x.dst.toNat r, lost := s.th.lost.filter (· != .pred x.dst.toNat) })
    (Runs s h →
      put (.pset h x) (if x.aux.getLsbD 0 then BitVec.allOnes 1024 else 0) ∧
      (Kept s [.pred m] →
        put (.pnot h x) (~~~(p m)) ∧ put (.pmov h x) (p m) ∧ Does (.pany h x) s [.s (if p m = 0 then 0 else 1)]) ∧
      (Kept s [.pred m, .pred n] →
        put (.pand h x) (p m &&& p n) ∧ put (.por h x) (p m ||| p n) ∧ put (.pxor h x) (p m ^^^ p n))) ∧
    (Disabled s h → Does (.pany h x) s [.s 0] ∧
      ∀ k ∈ [Instr.pset h x, .pnot h x, .pmov h x, .pand h x, .por h x, .pxor h x], Does k s []) ∧
    (96 ≤ m → ∀ k ∈ [Instr.pnot h x, .pmov h x, .pany h x, .pand h x, .por h x, .pxor h x], ¬ k.WellFormed) ∧
    (96 ≤ n → ∀ k ∈ [Instr.pand h x, .por h x, .pxor h x], ¬ k.WellFormed) ∧
    (x.dst ≠ 0 → ¬ (Instr.pany h x).WellFormed)

/-- R237: `pcmp` gives every bit the result of two scalars, whose type is one of five; with a vector operand it compares lane by
lane, in every integer and floating type, keeps the bits of disabled lanes, and clears the bits past the lanes. A signalling NaN
that is compared raises INV, and nothing else raises a flag. -/
def Sys2Proof.Spec.Compare : Prop :=
  ∀ (s : State) (h : Hdr) (x : FmtS) (a b : Val),
    let ty := (tyOf (x.aux.extractLsb' 4 7)).getD .i64
    let code := (x.aux.extractLsb' 0 4).toNat
    let w := ty.width
    let old := tget s.th.preds x.dst.toNat 0
    let num := fun (v : Val) j => numOf ty (lane w (v.vec w) j)
    let put := fun (r : Pred) (fl : Flags) => ∃ lost, exec (.pcmp h x) s = .next (s.setTh { went s fl with
      preds := tput 0 s.th.preds x.dst.toNat r, lost })
    let one := fun (v : Val) => numOf ty (v.word.toNat % 2 ^ w)
    let scalarTys := [Ty.i64, .n64, .i32, .n32, .f32]
    Reads s [(.e, x.opa), (.e, x.opb)] [a, b] →
    (a.isVec = false → b.isVec = false →
      (ty ∈ scalarTys → Runs s h → ∃ r, put r (flagIf ((one a).isSig || (one b).isSig) fINV) ∧
        ∀ j, j < 1024 → r.getLsbD j = meets code (cmpNum (one a) (one b))) ∧
      (ty ∈ scalarTys → Disabled s h → Does (.pcmp h x) s []) ∧
      (ty ∉ scalarTys → exec (.pcmp h x) s = .next (raise s (wordTrap s.th 0x01)))) ∧
    (ty ∈ [Ty.i4, .n4, .i8, .n8, .i16, .n16, .i32, .n32, .i64, .n64, .f16, .bf16, .f32] → a.isVec = true ∨ b.isVec = true →
      stageAct s.th h.stg.toNat = .run → guardLost s.th h = false →
      ∃ r fl, put r fl ∧ (∀ j, j < 1024 → r.getLsbD j =
        if lanesOf w ≤ j then false
        else if enabledAt s.th h j then meets code (cmpNum (num a j) (num b j)) else old.getLsbD j) ∧
        (fl = fINV ∨ fl = 0) ∧ (fl = fINV ↔ ∃ j, j < lanesOf w ∧ enabledAt s.th h j = true ∧ ((num a j).isSig || (num b j).isSig) = true))

/-- R80, R196, R239, R241, R282, R299, R310: control registers. `csrr` appends the register; FPSTAT clears where the scalar is 1; a
tenant reads TARGET as zero, and its writes to fields of access code RS or RO are ignored. On an access thread `csrw` waits while
queue loads are pending (R196). `gen` appends (p << 8) | G[p]. The model's choices and readings in it: notes/assumptions 38. -/
def Obligations.ControlRegisters : Prop :=
  ∀ (s : State) (h : Hdr) (x : FmtS) (a : Word), Runs s h →
    let p := partOf s (coreOf s.cur)
    let core := s.core (coreOf s.cur)
    Does (.csrr h x) s [.s (readCsr s s.cur x.aux.toNat)] ∧
    Does (.gen h x) s [.s (BitVec.ofNat 64 (p * 256 + (s.part p).gen.toNat) &&& 0xFFF)] ∧
    (p ≠ 0 →
      (x.aux = 0x01 → Does (.csrr h x) s [.s (s.th.fpstat.zeroExtend 64)]) ∧
      (x.aux = 0x02 → Does (.csrr h x) s [.s s.th.trapinfo]) ∧
      (x.aux = 0x10 → Does (.csrr h x) s [.s core.domain]) ∧
      (x.aux = 0x24 ∨ x.aux = 0x27 ∨ x.aux = 0x40 → Does (.csrr h x) s [.s 0])) ∧
    (Reads s [sc x.opa] [.s a] → ¬ Free s → exec (.csrw h x) s = .next (park s .loads)) ∧
    (Reads s [sc x.opa] [.s a] → Free s →
      exec (.csrw h x) s = .next (writeCsr (finishIn s []) s.cur x.aux.toNat a) ∧
      (p ≠ 0 → x.aux = 0x01 →
        ∃ t, exec (.csrw h x) s = .next t ∧ t.th = { went s with fpstat := s.th.fpstat &&& ~~~(a.extractLsb' 0 6) }) ∧
      (p ≠ 0 → x.aux ∈ [0x02, 0x03, 0x10, 0x11, 0x12, 0x20, 0x21, 0x22, 0x23, 0x24, 0x26, 0x27, 0x28, 0x29, 0x2A, 0x2B, 0x40,
          0x41, 0x42] →
        exec (.csrw h x) s = .next (finishIn s [])))

/-- R39, R196, R234, R235, R242: hints, `lidx`, `alive`, `done`: what each leaves. On an access thread `alive` waits while queue
loads are pending. -/
def Obligations.HintsAndStops : Prop :=
  ∀ (s : State) (h : Hdr) (x : FmtS) (y : FmtB) (v : Word), Runs s h →
    (x.aux.getLsbD 15 = false → Does (.nop h x) s []) ∧
    exec (.lit h x v) s = .next (finishIn s [.s v] 0 16) ∧
    exec (.prio h x) s = .next (s.setTh { went s with hint := x.aux.extractLsb' 0 3 }) ∧
    (∀ l, s.th.loop = some l → (x.aux.extractLsb' 0 3).toNat < l.stages →
      Does (.lidx h x) s [.s (BitVec.ofInt 64 (l.k - (x.aux.extractLsb' 0 3).toNat))]) ∧
    (∃ t, exec (.done h y) s = .next t ∧ t.th.status = .done ∧ t.th.window = [] ∧ t.cores = s.cores ∧ t.dies = s.dies) ∧
    (¬ Free s → exec (.alive h y) s = .next (park s .loads)) ∧
    (Free s → (∀ l, launchOf s (coreOf s.cur) = some l → l.persist = false) → Does (.alive h y) s []) ∧
    (Free s → ∀ l, launchOf s (coreOf s.cur) = some l → l.persist = true → l.cores.Nodup → tsorted s.cores = true →
      ∃ t, exec (.alive h y) s = .next t ∧ t.th = went s ∧ ∀ c ∈ l.cores, (t.core c).wdog.left = l.timeout)

/-- R53, R231, R232: taken transfers. The thread passes the newest positions, a head at the target agrees, and a call keeps the
caller's window and the address of the next word in a frame. -/
def Sys2Proof.Spec.Transfers : Prop :=
  ∀ (s : State) (h : Hdr) (x : FmtB) (a : Word), Runs s h →
    let n := x.nps.toNat
    let target := s.th.pc + 8 * x.off.signExtend 64
    let pass := s.th.window.take n
    let frame : Frame := { ret := s.th.pc + 8, window := s.th.window, tag := tagOf s (partOf s (coreOf s.cur)) }
    (n ≤ s.th.window.length →
      (headCheck s target.toNat pass.reverse = true →
        Enters (.jmp h x) s target pass s.th.frames ∧
        (s.th.frames.length < 64 → Enters (.call h x) s target pass (frame :: s.th.frames)) ∧
        (Reads s [sc x.opa] [.s a] →
          (a ≠ 0 → Enters (.brt h x) s target pass s.th.frames) ∧ (a = 0 → Enters (.brf h x) s target pass s.th.frames))) ∧
      (Reads s [sc x.opa] [.s a] → (a = 0 → Does (.brt h x) s []) ∧ (a ≠ 0 → Does (.brf h x) s [])) ∧
      (∀ f fs, s.th.frames = f :: fs → f.lost = false →
        Enters (.ret h x) s f.ret ((pass ++ f.window).take 64) fs)) ∧
    (Reads s [sc x.opa] [.s a] → a.toNat % 8 = 0 →
      let rest := if x.opa.getLsbD 6 then s.th.window else s.th.window.eraseIdx (x.opa.extractLsb' 0 6).toNat
      n ≤ rest.length → headCheck s a.toNat (rest.take n).reverse = true →
        Enters (.jmpi h x) s a (rest.take n) s.th.frames ∧
        (s.th.frames.length < 64 → Enters (.calli h x) s a (rest.take n) (frame :: s.th.frames)))

/-- R53, R231, R232: where a transfer does not complete it raises its cause and nothing else: too few positions 0x03, whether it is
taken or not; of one that is taken, a head that disagrees 0x04, an address that is not a multiple of 8 0x14, a call at depth 64 and
a `ret` without a frame 0x30. -/
def Sys2Proof.Spec.TransferCauses : Prop :=
  ∀ (s : State) (h : Hdr) (x : FmtB) (a : Word), Runs s h →
    let n := x.nps.toNat
    let pass := s.th.window.take n
    let rest := if x.opa.getLsbD 6 then s.th.window else s.th.window.eraseIdx (x.opa.extractLsb' 0 6).toNat
    let word := fun i c => exec i s = .next (raise s (wordTrap s.th c))
    let code := fun i c => exec i s = .next (raise s { cause := 0x30, info := c, issue := c })
    let head := headCheck s (s.th.pc + 8 * x.off.signExtend 64).toNat pass.reverse
    (s.th.window.length < n →
      (∀ i ∈ [Instr.jmp h x, .call h x, .ret h x], word i 0x03) ∧
      (Reads s [sc x.opa] [.s a] → word (.brt h x) 0x03 ∧ word (.brf h x) 0x03)) ∧
    (Reads s [sc x.opa] [.s a] → rest.length < n → word (.jmpi h x) 0x03 ∧ word (.calli h x) 0x03) ∧
    (n ≤ s.th.window.length →
      (head = false → word (.jmp h x) 0x04 ∧ word (.call h x) 0x04 ∧
        (Reads s [sc x.opa] [.s a] → (a ≠ 0 → word (.brt h x) 0x04) ∧ (a = 0 → word (.brf h x) 0x04))) ∧
      (head = true → 64 ≤ s.th.frames.length → code (.call h x) 0xFFFFFF) ∧
      (s.th.frames = [] → code (.ret h x) 0xFFFFFE)) ∧
    (Reads s [sc x.opa] [.s a] → n ≤ rest.length →
      (a.toNat % 8 ≠ 0 → ∀ i ∈ [Instr.jmpi h x, .calli h x], exec i s = .next (raise s { cause := 0x14, kind := 1, info := a.toNat })) ∧
      (a.toNat % 8 = 0 → headCheck s a.toNat (rest.take n).reverse = false → word (.jmpi h x) 0x04 ∧ word (.calli h x) 0x04) ∧
      (a.toNat % 8 = 0 → headCheck s a.toNat (rest.take n).reverse = true → 64 ≤ s.th.frames.length → code (.calli h x) 0xFFFFFF))

/-- R47, R53, R55: a disabled transfer is not taken and the thread goes on, but a head at its target that disagrees raises cause
0x04 enabled or not: at the target of a relative one, and at the address that the operand of `jmpi` or `calli` holds. A lost or
misaligned address names no head. -/
def Sys2Proof.Spec.DisabledTransfers : Prop :=
  ∀ (s : State) (h : Hdr) (x : FmtB) (v : Val), Disabled s h →
    let n := x.nps.toNat
    let pass := s.th.window.take n
    let rest := if x.opa.getLsbD 6 then s.th.window else s.th.window.eraseIdx (x.opa.extractLsb' 0 6).toNat
    let word := fun i c => exec i s = .next (raise s (wordTrap s.th c))
    let head := headCheck s (s.th.pc + 8 * x.off.signExtend 64).toNat pass.reverse
    (n ≤ s.th.window.length →
      (head = true → Does (.jmp h x) s [] ∧ Does (.call h x) s []) ∧
      (head = false → word (.jmp h x) 0x04 ∧ word (.call h x) 0x04) ∧
      (getOps s.th [sc x.opa] = .ok [v] →
        (head = true → Does (.brt h x) s [] ∧ Does (.brf h x) s []) ∧
        (head = false → word (.brt h x) 0x04 ∧ word (.brf h x) 0x04)) ∧
      Does (.ret h x) s []) ∧
    (getOps s.th [sc x.opa] = .ok [v] → n ≤ rest.length →
      let agrees := v.isLost = true ∨ v.word.toNat % 8 ≠ 0 ∨ headCheck s v.word.toNat (rest.take n).reverse = true
      (agrees → Does (.jmpi h x) s [] ∧ Does (.calli h x) s []) ∧
      (¬ agrees → word (.jmpi h x) 0x04 ∧ word (.calli h x) 0x04))

/-- R233: `loop` saves the window and enters its body with the values passed; a trip count of 0 goes to `lend` at once. `lend`
takes the back edge while kernel iterations remain, and otherwise restores the saved window followed by the final values. -/
def Sys2Proof.Spec.Loops : Prop :=
  ∀ (s : State) (h : Hdr) (x : FmtB),
    let n := x.nps.toNat
    let lend := s.th.pc + 8 * x.off.signExtend 64
    (∀ (a : Word) m stages, Runs s h → Reads s [sc x.opa] [.s a] → n ≤ s.th.window.length →
      lendAt s s.cur lend.toNat x.off = .ok (m, stages) →
      ∃ t l, exec (.loop h x) s = .next (s.setTh { went s with pc := t, window := s.th.window.take n, loop := some l }) ∧
        l.trip = a.toNat % 2 ^ 32 ∧ l.stages = stages ∧ l.k = 0 ∧ l.outer = s.th.window ∧ l.lendPc = lend ∧
        l.loopPc = s.th.pc + 8 ∧ l.mode = .normal ∧ t = (if l.trip = 0 then lend else s.th.pc + 8)) ∧
    (∀ l, s.th.loop = some l → l.mode = .normal →
      let kernels := if l.trip = 0 then 0 else l.trip + l.stages - 1
      (l.k + 1 < kernels →
        exec (.lend h x) s = .next (s.setTh { went s with
          pc := l.loopPc, window := s.th.window, blk := none, entered := true, loop := some { l with k := l.k + 1 } })) ∧
      (kernels ≤ l.k + 1 → n ≤ s.th.window.length →
        exec (.lend h x) s = .next (s.setTh { went s with
          window := (s.th.window.take n ++ l.outer).take 64, loop := none })) ∧
      (kernels ≤ l.k + 1 → s.th.window.length < n →
        exec (.lend h x) s = .next (raise (s.setTh { s.th with loop := some { l with k := kernels } }) (wordTrap s.th 0x03))))

/-- R226, R233, R285: a drain runs to kernel iteration j + S − 2, then the kept window comes back and the loop resumes at j in
refill; a soft stop asked for acts there, unless a cause is to be taken first. -/
def Sys2Proof.Spec.LoopDrains : Prop :=
  ∀ (s : State) (h : Hdr) (x : FmtB) (l : LoopState) (j : Nat) (kept vals : List Val),
    s.th.loop = some l → l.mode = .drain j kept vals → l.k + 2 = j + l.stages →
    ∃ t, exec (.lend h x) s = .next (s.setTh t) ∧ t.window = kept ∧ t.pc = l.loopPc ∧
      (∃ l', t.loop = some l' ∧ l'.mode = .refill j vals ∧ l'.outer = l.outer ∧ l'.trip = l.trip) ∧
      (s.th.soft = true → (went s).pend = [] → (went s).stepMode ≠ .fired → t.status = .stopped)

/-- R225, R226, R285: a soft stop asked for acts on a thread outside a loop body at once; the thread is stopped with nothing else of
it changed but where a block may start. A hard stop acts at any boundary. A cause to take at the boundary, or a finished single
step, goes before either. -/
def Obligations.SoftAndHardStops : Prop :=
  ∀ (s : State) (tid : Nat), (s.thread tid).status = .running →
    ((s.thread tid).soft = true ∧ (s.thread tid).loop = none) ∨ (s.thread tid).hard = true →
    ((s.thread tid).pend = [] → (s.thread tid).stepMode ≠ .fired → exec (.softPreemptDrain tid) s =
      .next (s.setThread tid { s.thread tid with status := .stopped, soft := false, hard := false, blk := none })) ∧
    ((s.thread tid).pend ≠ [] ∨ (s.thread tid).stepMode = .fired → exec (.softPreemptDrain tid) s = .next s)


/-- R237, R238: predicates. The model's choices and readings in it: notes/assumptions 24, 64. -/
def Obligations.Predicates : Prop := PredicateLogic ∧ Compare

/-- R53, R55, R231, R232: transfers that are taken, those that raise a cause, and disabled ones. The model's choices and readings in
it: notes/assumptions 22, 25. -/
def Obligations.ControlTransfers : Prop := Transfers ∧ TransferCauses ∧ DisabledTransfers

/-- R226, R233: hardware loops, and how a drained one goes on. The model's choices and readings in it: notes/assumptions 26. -/
def Obligations.HardwareLoops : Prop := Loops ∧ LoopDrains
namespace Sys2Proof.Spec

open Sys2Proof Sys2Proof.Machine Sys2Proof.Safety

/-- The effective address of a flat access (R179). -/
def ea (base : Word) (disp : BitVec 12) : Nat := (base + disp.signExtend 64).toNat

/-- Bytes of a SIZE code (R60). -/
def bytesOf (size : BitVec 3) : Nat :=
  match size.toNat with
  | 0 => 1 | 1 => 2 | 2 => 4 | 3 => 8 | 4 => 64 | 5 => 512
  | _ => 1

/-- The order of an access asks for nothing still to come (R161, R162, R169): it holds no earlier access, or every write it covers
is visible at its scope, no lost write is to be reported, and for an sc access no earlier queue load is out. -/
def OrderMet (s : State) (ord scope : Nat) : Prop :=
  ord ≠ 2 ∧ ord ≠ 3 ∧ ord ≠ 4 ∨ (ord = 4 → Free s) ∧
    lostAt s.th scope = none ∧ orderMet s (dieOf (coreOf s.cur)) scope (s.die (dieOf (coreOf s.cur))).clock = true

/-- The value of `n` bytes of a place, as the current thread reads them. -/
def valueAt (s : State) (pl : Place) (n : Nat) : Nat := leNat (readBytes s (whoOf s s.cur) pl.store pl.addr n)

/-- A place in the near store or bank memory of the current thread's own die that nothing of this thread's is on its way to, and
whose data is sound: reading `n` bytes there reads the array itself (R157, R158, R292). -/
def LocalRead (s : State) (pl : Place) (n : Nat) : Prop :=
  (pl.store = .near (coreOf s.cur) ∨ pl.store = .bank (dieOf (coreOf s.cur))) ∧ pl.nib = none ∧
    poisonIn s (whoOf s s.cur) pl.store pl.addr n = none ∧
    (∀ w ∈ s.writes, w.touches pl.store pl.addr n 0xFF = false) ∧ askedOverlap s (coreOf s.cur) pl.store pl.addr n = false

/-- A place of `n` bytes that the current thread's partition owns, homed on the thread's own die, where a write of the thread may be
applied at once (R157, R160, R263). -/
def LocalWrite (s : State) (pl : Place) (n : Nat) : Prop :=
  let d := dieOf (coreOf s.cur)
  (pl.store = .near (coreOf s.cur) ∨ pl.store = .bank d) ∧ pl.nib = none ∧ (whoOf s s.cur).raw = false ∧
    (∀ i, i < n → tagCurrent s (stPoint pl.store (pl.addr + i)) (whoOf s s.cur).tag = true) ∧ tagPart (whoOf s s.cur).tag = partOf s (coreOf s.cur) ∧
    (∀ i, i < n → owns s (partOf s (coreOf s.cur)) pl.store
      (unitRange pl.store (unitOf pl.store (pl.addr + i))).1 = true) ∧
    tget s.applied d 0 = tget (s.die d).clock d 0 ∧
    (∀ j, j < 4 → j ≠ d → tget (s.die d).clock j 0 ≤ tget (s.die d).known j 0)

end Sys2Proof.Spec

open Sys2Proof Sys2Proof.Machine Sys2Proof.Safety Sys2Proof.Spec

/-- R179, R180, R182: flat loads at every place, order and scope: every byte is found, or the first cause over all of them is
raised; the order is met, the locations are read, and the value is appended, sign-extended by `ldi`. -/
def Sys2Proof.Spec.FlatLoads : Prop :=
  ∀ (s : State) (h : Hdr) (x : FmtM) (base : Word),
    let n := bytesOf x.size
    let e := ea base x.disp
    Runs s h → Reads s [sc x.opa] [.s base] → s.th.status = .running →
    (∀ t, flatLocs s s.cur e n n .load = .error t →
      ∀ i ∈ [Instr.ldi h x, .ldn h x, .ldv h x], exec i s = .next (raise s t)) ∧
    (∀ ls ws s1, OrderMet s x.ord.toNat x.scp.toNat → flatLocs s s.cur e n n .load = .ok ls → readLocs s s.cur ls = .ok (ws, s1) →
      let answers := fun (i : Instr) (r : Val) => exec i s = .next (finishOrder (askFlat s1 s.cur e) x.ord.toNat x.scp.toNat [r])
      answers (.ldi h x) (.s (BitVec.ofInt 64 (signedOf (8 * n) (joinVals ls ws)))) ∧
      answers (.ldn h x) (.s (BitVec.ofNat 64 (joinVals ls ws))) ∧
      answers (.ldv h x) (.v (BitVec.ofNat 4096 (joinVals ls ws))))

/-- R179, R182: a plain or acquire load of sound data on its own die appends what the array holds there, little-endian and
sign-extended by `ldi`, and changes nothing but its thread. -/
def Sys2Proof.Spec.LocalLoads : Prop :=
  ∀ (s : State) (h : Hdr) (x : FmtM) (base : Word) (pl : Place),
    let n := bytesOf x.size
    Runs s h → Reads s [sc x.opa] [.s base] → s.th.status = .running → x.ord = 0 ∨ x.ord = 1 →
    flatPlace s s.cur (ea base x.disp) n n .load = .ok pl → LocalRead s pl n →
      (x.size.toNat < 4 →
        Does (.ldn h x) s [.s (BitVec.ofNat 64 (valueAt s pl n))] ∧
        Does (.ldi h x) s [.s (if valueAt s pl n < 2 ^ (8 * n - 1) then BitVec.ofNat 64 (valueAt s pl n)
          else BitVec.ofInt 64 (valueAt s pl n - 2 ^ (8 * n)))]) ∧
      (x.size.toNat = 4 ∨ x.size.toNat = 5 → Does (.ldv h x) s [.v (BitVec.ofNat 4096 (valueAt s pl n))])

/-- R179, R180, R182: flat stores at every place, order and scope: every byte is found, or the first cause over all of them is
raised; then the low bytes of the scalar, or the vector, go out to the locations in their order. -/
def Sys2Proof.Spec.FlatStores : Prop :=
  ∀ (s : State) (h : Hdr) (x : FmtM) (base : Word) (v : Val),
    let n := bytesOf x.size
    let e := ea base x.disp
    let scalar := Reads s [sc x.opa, sc x.opb] [.s base, v]
    let vector := Reads s [sc x.opa, vc x.opb] [.s base, v]
    Runs s h → s.th.status = .running →
    (∀ t, flatLocs s s.cur e n n .store = .error t →
      (scalar → exec (.st h x) s = .next (raise s t)) ∧ (vector → exec (.stv h x) s = .next (raise s t))) ∧
    (∀ ls, Free s → OrderMet s x.ord.toNat x.scp.toNat → flatLocs s s.cur e n n .store = .ok ls →
      let answers := fun (i : Instr) (r : Nat) => exec i s = .next (finishOrder
        (writeLocs (askFlat s s.cur e) s.cur (x.mca == 1) 0 true (storeParts e ls r)) x.ord.toNat x.scp.toNat [])
      (scalar → answers (.st h x) v.word.toNat) ∧ (vector → answers (.stv h x) (v.vec 64).toNat))

/-- R182, R263: a plain store on its own die: the bytes at the effective address take the value, little-endian, as the storing
partition reads them; every other byte of the package reads to it as before; the thread goes on. -/
def Sys2Proof.Spec.LocalStores : Prop :=
  ∀ (s : State) (h : Hdr) (x : FmtM) (base : Word) (v : Val) (pl : Place),
    let n := bytesOf x.size
    let w := whoOf s s.cur
    let stores := fun (i : Instr) (r : Nat) => ∃ t, exec i s = .next t ∧ t.th = went s ∧
      (∀ k, k < n → readByte t w pl.store (pl.addr + k) = BitVec.ofNat 8 (r / 256 ^ k)) ∧
      (∀ st a, ¬ (st = pl.store ∧ pl.addr ≤ a ∧ a < pl.addr + n) → readByte t w st a = readByte s w st a)
    Runs s h → s.th.status = .running → Free s → x.ord = 0 → TablesOk s → MemWf s →
    flatPlace s s.cur (ea base x.disp) n n .store = .ok pl → LocalWrite s pl n →
      (Reads s [sc x.opa, sc x.opb] [.s base, v] → x.size.toNat < 4 → stores (.st h x) v.word.toNat) ∧
      (Reads s [sc x.opa, vc x.opb] [.s base, v] → x.size.toNat = 4 ∨ x.size.toNat = 5 → stores (.stv h x) (v.vec 64).toNat)

/-- R179-R181: where a flat access goes. The checks come in the order of R180 and raise their causes: an address beyond 48 bits or
outside its window is 0x15, a misaligned one 0x14. An access that lies in one granule has the place of its first byte; one of a
tenant that reaches past it has the places of all its bytes, each translated by itself, and the first cause of R180 over them, for
its own address. -/
def Sys2Proof.Spec.FlatAccessCauses : Prop :=
  (∀ (s : State) (tid e n align : Nat) (acc : Acc), 0 < n →
    let t := fun c : Nat => Except.error { cause := c, kind := 1, info := e : Trap }
    let at_ := flatLocs s tid e n align acc
    (2 ^ 48 ≤ e → at_ = t 0x15) ∧
    (e / 2 ^ 40 = 0xF0 → 0x80000 < e % 2 ^ 40 + n → at_ = t 0x15) ∧
    (e / 2 ^ 40 = 0xF0 → e % 2 ^ 40 + n ≤ 0x80000 → e % align ≠ 0 → at_ = t 0x14) ∧
    (e / 2 ^ 40 = 0xF0 → e % 2 ^ 40 + n ≤ 0x80000 → e % align = 0 →
      at_ = .ok (unitLocs { store := .near (coreOf tid), addr := e % 2 ^ 40 } n)) ∧
    (0xF3 ≤ e / 2 ^ 40 → at_ = t 0x15) ∧
    (e < 0xF00000000000 → 0xF00000000000 < e + n → at_ = t 0x15) ∧
    (e + n ≤ 0xF00000000000 → e % align ≠ 0 → at_ = t 0x14) ∧
    (flatSplit s tid e n = false → at_ = (flatPlace s tid e n align acc).map (unitLocs · n)) ∧
    (flatSplit s tid e n = true → e % align = 0 →
      let byte := fun i => flatPlace s tid (e + i) 1 1 acc
      (∀ ps : List Place, (∀ i, i < n → byte i = .ok (ps.getD i { store := .host, addr := 0 })) → ps.length = n →
        at_ = .ok (joinUnits (min n 8) n ps)) ∧
      (∀ i c, i < n → byte i = .error c → ∃ k d, k < n ∧ byte k = .error d ∧ at_ = .error { d with info := e } ∧
        ∀ j d', j < n → byte j = .error d' → causeRank d.cause ≤ causeRank d'.cause))) ∧
  ∀ (u : Nat) (ps : List Place), 0 < u →
    let bytes := fun (l : Loc) => (List.range (l.2 / 8)).map fun i => { l.1 with addr := l.1.addr + i }
    ((joinUnits u ps.length ps).flatMap bytes) = ps

/-- R180, R184, R240: `pref` does nothing but go on; `bnld` loads its pattern whole, with the tag of the tenancy, or raises the
first cause over the pattern's bytes. -/
def Obligations.PrefetchAndPatternLoad : Prop :=
  (∀ (s : State) (h : Hdr) (x : FmtM) (a : Word), Runs s h → Reads s [sc x.opa] [.s a] → Does (.pref h x) s []) ∧
  (∀ (s : State) (h : Hdr) (x : FmtS) (a : Word), Runs s h → Reads s [sc x.opa] [.s a] →
    (∀ t, flatLocs s s.cur a.toNat 64 64 .load = .error t → exec (.bnld h x) s = .next (raise s t)) ∧
    (∀ ls ws s0, Free s → flatLocs s s.cur a.toNat 64 64 .load = .ok ls → readLocs s s.cur ls = .ok (ws, s0) → x.dst.toNat < 8 →
      let s1 := askFlat s0 s.cur a.toNat
      exec (.bnld h x) s = .next (finishIn (s1.setCore (coreOf s.cur) { s1.core (coreOf s.cur) with
        patterns := tput {} (s1.core (coreOf s.cur)).patterns x.dst.toNat
          { bits := BitVec.ofNat 512 (joinVals ls ws), tag := tagOf s (partOf s (coreOf s.cur)) } }) [])))

/-- R183, R192, R195, R196: a plain queue load of the access thread takes the newest place of its queue at once and waits for
nothing else; one with an order reads its lanes now, once the order before it is met; on an execute thread it raises 0x22, and on a
full queue its thread waits. A plain one whose translation meets 0x10, 0x11, 0x12 or 0x19 goes on with its entry pending; it takes
any other cause now, and one with an order or on an execute thread takes every cause now, before 0x22 (log 21). The model's choices
and readings in it: notes/assumptions 21. -/
def Obligations.QueueLoads : Prop :=
  ∀ (s : State) (h : Hdr) (x : FmtM) (y : FmtT) (a b : Word),
    let core := coreOf s.cur
    let acc := tAcc s y.hnd
    let e := ea a x.disp
    let at_ := flatLocs s s.cur e 512 512 .load
    let before : Thread := { s.th with status := .running }
    let entry := fun (t : Trap) (ls : List Lane) =>
      ({ tag := (whoOf s s.cur).tag, ckpt := some before, trap := t, status := .asked ls } : Entry)
    let room := fun q => (tget (s.core core).queues q []).length < 16
    let others := fun (i : Instr) (q : Nat) =>
      (isExe s.cur = true → exec i s = .next (raise s { cause := 0x22 })) ∧
      (isExe s.cur = false → ¬ room q → exec i s = .next (park s (.qspace q 1)))
    let late := fun (i : Instr) (q : Nat) (ord : BitVec 3) (t : Trap) =>
      (isExe s.cur = true ∨ ord ≠ 0 ∨ t.cause ∉ [0x10, 0x11, 0x12, 0x19] → exec i s = .next (raise s t)) ∧
      (isExe s.cur = false → ord = 0 → t.cause ∈ [0x10, 0x11, 0x12, 0x19] →
        (room q → exec i s = .next (finishIn (pushEntry s core q
          { tag := (whoOf s s.cur).tag, ckpt := some before, trap := t, status := .replied, fault := some t }) [])) ∧
        (¬ room q → exec i s = .next (park s (.qspace q 1))))
    Runs s h → s.th.status = .running →
      (Reads s [sc x.opa] [.s a] →
        let q := (x.opb.extractLsb' 0 3).toNat
        (∀ t, at_ = .error t → late (.ldq h x) q x.ord t) ∧
        (∀ ls, at_ = .ok ls →
          let lanes := lanesOfLocs (((locOffs 0 ls).zip ls).map fun l => (8 * l.1, l.2))
          others (.ldq h x) q ∧
          (isExe s.cur = false → room q → x.ord = 0 →
            exec (.ldq h x) s = .next (finishIn (pushEntry (askFlat s s.cur e) core q (entry (flatTrap 0x19 e) lanes)) [])) ∧
          (isExe s.cur = false → room q → x.ord ≠ 0 → OrderMet s x.ord.toNat x.scp.toNat →
            ∀ vs s1, readLocs s s.cur (lanes.map fun l => (l.place, l.len)) = .ok (vs, s1) →
              exec (.ldq h x) s = .next (finishOrder (pushEntry (askFlat s1 s.cur e) core q
                { tag := (whoOf s s.cur).tag, ckpt := some before, trap := flatTrap 0x19 e, status := .replied,
                  data := fillLanes lanes vs }) x.ord.toNat x.scp.toNat [])))) ∧
      (Reads s [sc y.opa, sc y.opb] [.s a, .s b] →
        let q := (y.opc.extractLsb' 0 3).toNat
        let c := tCoords acc a b
        (∀ t, tRun s acc c b .load (fun _ => true) = .error t → late (.tldq h y) q 0 t) ∧
        (∀ ps, tRun s acc c b .load (fun _ => true) = .ok ps →
          others (.tldq h y) q ∧
          (isExe s.cur = false → room q → exec (.tldq h y) s = .next (finishIn
            (pushEntry (tWalks s acc (ps.map fun p => runAt c p.1)) core q
              (entry (tTrap acc 0x19 c) (lanesOfLocs (ps.map fun p => (acc.w * p.1, (p.2, acc.w)))))) []))))

/-- R180, R186-R191, R292: tensor loads and stores at the places their coordinates give, or the first cause over all their lanes;
lanes past extent 0 or disabled read zero and store nothing; a descriptor whose data is lost is 0x19, before its extents are looked
at; `tinfo` appends the fact asked for. The model's choices and readings in it: notes/assumptions 97, 98. -/
def Obligations.TensorAccesses : Prop :=
  ∀ (s : State) (h : Hdr) (x : FmtT) (a b : Word) (cv d : Val) (ps : List (Nat × Place)) (vs : List Nat) (s1 : State),
    let t := tAcc s x.hnd
    let c := tCoords t a b
    let run := fun i => c.set 0 (c.getD 0 0 + i)
    let loaded := fun (i : Instr) (at_ : Nat → List Nat) => exec i s =
      .next (finishIn (tWalks s1 t (ps.map fun p => at_ p.1)) [.v (lanesVec t ((ps.map (·.1)).zip vs))])
    let stored := fun (i : Instr) (join : Bool) (at_ : Nat → List Nat) => exec i s = .next (finishIn
      (writeLocs (tWalks s t (ps.map fun p => at_ p.1)) s.cur (x.mca == 1)
        t.h join (ps.map fun p => ((p.2, t.w), lane t.w (d.vec t.w) p.1, tTrap t 0x1A (at_ p.1)))) [])
    let raised := fun (i : Instr) (r : Except Trap (List (Nat × Place))) => ∀ k, r = .error k → exec i s = .next (raise s k)
    let on := fun i => enabledAt s.th h i
    (RunsLanes s h t.n →
      (Reads s [sc x.opa, sc x.opb] [.s a, .s b] → raised (.tld h x) (tRun s t c b .load on) ∧
        (tRun s t c b .load on = .ok ps → readLocs s s.cur (ps.map fun p => (p.2, t.w)) = .ok (vs, s1) → loaded (.tld h x) run)) ∧
      (Reads s [sc x.opa, sc x.opb, vc x.opc] [.s a, .s b, d] → raised (.tst h x) (tRun s t c b .store on) ∧
        (Free s → tRun s t c b .store on = .ok ps → stored (.tst h x) true run))) ∧
    (RunsLanes s h 64 →
      (Reads s [vc x.opa, sc x.opb] [cv, .s b] → raised (.tgat h x) (tScattered s h t cv b .load) ∧
        (tScattered s h t cv b .load = .ok ps → readLocs s s.cur (ps.map fun p => (p.2, t.w)) = .ok (vs, s1) →
          loaded (.tgat h x) (gatherCoords t cv b))) ∧
      (Reads s [vc x.opa, sc x.opb, vc x.opc] [cv, .s b, d] → raised (.tsct h x) (tScattered s h t cv b .store) ∧
        (Free s → tScattered s h t cv b .store = .ok ps → stored (.tsct h x) false (gatherCoords t cv b)))) ∧
    (∀ l acc act, t.h ≠ 0 → descPoison s (s.core (coreOf s.cur)).view (partOf s (coreOf s.cur)) t.h = some l →
      tRun s t c b acc act = .error { cause := 0x19, kind := 2, info := t.h, c01 := a, c23 := b, errAt := some l }) ∧
    (Runs s h → Reads s [sc x.opa] [.s a] → descPoison s (s.core (coreOf s.cur)).view (partOf s (coreOf s.cur)) x.hnd.toNat = none →
      let e := coreDesc s (coreOf s.cur) x.hnd.toNat
      ∃ r, Does (.tinfo h x) s [.s r] ∧
        (8 < a.toNat → r = BitVec.allOnes 64) ∧ (a.toNat ≤ 8 → e.rank = 0 → r = 0) ∧
        (e.rank ≠ 0 → (a = 0 → r = BitVec.ofNat 64 e.rank) ∧ (a = 6 → r = BitVec.ofNat 64 e.version) ∧
          (a = 7 → r = if e.sealed_ then 1 else 0) ∧
          (∀ k, k < e.rank → k < 4 → a = BitVec.ofNat 64 (2 + k) → r = BitVec.ofNat 64 (e.ext.getD k 1))))

/-- R155, R157, R263: stores change nothing but the bytes they go to. Whatever locations a store of the current thread names, on
whatever die, every other byte of the package's storage reads to the storing partition as before, while no checking point is still
to install its generation (of a partition with threads none is, R265). The model's choices and readings in it: notes/assumptions 14.
-/
def Obligations.StoresFrame : Prop :=
  ∀ (s : State) (mca join : Bool) (handle : Nat) (l : List (Loc × Nat × Trap)),
    TablesOk s → MemWf s → (s.part (tagPart (whoOf s s.cur).tag)).behind = [] →
    (∀ e ∈ l, ∀ c, e.1.1.store ≠ .tiles c) →
      ∀ st a, (∀ d, st ≠ .dev d) → (∀ e ∈ l, e.1.1.store = st → a < e.1.1.addr ∨ e.1.1.addr + e.1.bytes ≤ a) →
        readByte (writeLocs s s.cur mca handle join l) (whoOf s s.cur) st a = readByte s (whoOf s s.cur) st a

/-- R165, R169, R185, R292: a `seal` in its handle's turn sets the seal, bumps the versions and shoots the translations down, and
goes on once no write of the handle is on its way and its release holds; one of a sealed tensor waits for what is left too; a write
that is lost meanwhile is reported first; sealing a tensor that may not be written is 0x11; one whose turn has not come waits. An
`unseal` in its turn of a sealed tensor with no replica in use discards the replicas, clears the seal and bumps the version. A
descriptor whose data is lost is 0x19. The model's choices and readings in it: notes/assumptions 61. -/
def Obligations.Sealing : Prop :=
  ∀ (s : State) (h : Hdr) (x : FmtM) (a : Word),
    let k := a.toNat % 2 ^ 13
    let p := partOf s (coreOf s.cur)
    let s1 := joinSeal s k
    Runs s h → Reads s [sc x.opa] [.s a] → s.th.status = .running →
      (∀ l, descPoison s none p k = some l → ∀ i ∈ [Instr.seal h x, .unseal h x],
        exec i s = .next (raise s { tensorTrap 0x19 k [] with errAt := some l })) ∧
      (descPoison s none p k = none →
      (k = 0 ∨ (liveDesc s p k).w = false →
        exec (.seal h x) s = .next (raise s (tensorTrap 0x11 k []))) ∧
      (k ≠ 0 → (liveDesc s p k).w = true → Free s → firstSeal s1 k = true →
        ((liveDesc s1 p k).sealed_ = true → allApplied s1 (writesTo s1 p k) = true → OrderMet s1 2 5 →
          exec (.seal h x) s = .next (finishIn (leaveSeal s1 k) [])) ∧
        ((liveDesc s1 p k).sealed_ = true → allApplied s1 (writesTo s1 p k) = false →
          exec (.seal h x) s = .next (park s1 (.seal k (writesTo s1 p k)))) ∧
        (∀ c, (liveDesc s1 p k).sealed_ = true → allApplied s1 (writesTo s1 p k) = true → lostAt s.th 5 = some c →
          exec (.seal h x) s = .next (raise (s1.setTh { s.th with lostWrites := s.th.lostWrites.drop 1 }) c)) ∧
        (let s2 := bumpShards (shootTlb (putSeal s1 p k true) p k fun _ => true) p k ((liveDesc s1 p k).scnt + 1)
         (liveDesc s1 p k).sealed_ = false →
          (allApplied s2 (writesTo s2 p k) = true → OrderMet s2 2 5 → exec (.seal h x) s = .next (finishIn (leaveSeal s2 k) [])) ∧
          (allApplied s2 (writesTo s2 p k) = false → exec (.seal h x) s = .next (park s2 (.seal k (writesTo s2 p k)))))) ∧
      (k ≠ 0 → (liveDesc s p k).w = true → Free s → firstSeal s1 k = false → exec (.seal h x) s = .next (park s1 (.sealTurn k))) ∧
      (Free s → firstSeal s1 k = true → unsealReady s1 p k = true →
        ((liveDesc s1 p k).sealed_ = false → exec (.unseal h x) s = .next (finishIn (leaveSeal s1 k) [])) ∧
        (k ≠ 0 → (liveDesc s1 p k).sealed_ = true →
          let s3 := putSeal { leaveSeal s1 k with
            replicas := s.replicas.filter fun r => !(r.part == p && r.handle == k) } p k false
          exec (.unseal h x) s = .next (finishIn s3 []) ∧ (finishIn s3 []).th = went s ∧
            (∀ r ∈ s3.replicas, ¬ (r.part = p ∧ r.handle = k)))) ∧
      (Free s → firstSeal s1 k = false → exec (.unseal h x) s = .next (park s1 (.unseal k))))

/-- R192-R194: data queues. The access thread pushes; the execute thread takes the oldest entries that no record has reserved, once
they are ready and the queue loads issued before them have settled; each raises 0x22 on the other thread; a full or unready queue
makes the thread wait. A pop takes an entry only in a cycle after the one in which it became ready, and not in one in which the
queue has been counted; a count by the execute thread takes in no entry pushed in its cycle. The model's choices and readings in it:
notes/assumptions 107. -/
def Obligations.DataQueues : Prop :=
  ∀ (s : State) (h : Hdr) (x : FmtQ) (v : Val) (l : List Entry),
    let core := coreOf s.cur
    let q := x.qn.toNat
    let seen := fun e : Entry => if sees s (.queue core) (whoOf s s.cur) e.tag then e.data else 0
    let set := fun r : List Entry => s.setCore core { s.core core with queues := tput [] (s.core core).queues q r }
    let ok := fun e : Entry => e.status = .ready ∧ settledBefore s core e.issue = true ∧ e.taker = none ∧ e.poison = none
    let counted := tget (s.core core).counts q 0 = s.cycle + 1
    tget (s.core core).queues q [] = l → Runs s h →
      (Reads s [vc x.opa] [v] →
        (isExe s.cur = true → exec (.qpush h x) s = .next (raise s { cause := 0x22 })) ∧
        (isExe s.cur = false → l.length < 16 →
          exec (.qpush h x) s =
            .next (finishIn (pushEntry s core q { data := v.vec 64, tag := (whoOf s s.cur).tag }) [])) ∧
        (isExe s.cur = false → 16 ≤ l.length → exec (.qpush h x) s = .next (park s (.qspace q 1)))) ∧
      (isExe s.cur = false → exec (.qpop h x) s = .next (raise s { cause := 0x22 }) ∧
        exec (.qpeek h x) s = .next (raise s { cause := 0x22 }) ∧ exec (.qdrop h x) s = .next (raise s { cause := 0x22 })) ∧
      (isExe s.cur = true →
        (∀ e r, l = e :: r → ok e → e.readied ≤ s.cycle → ¬ counted → exec (.qpop h x) s = .next (finishIn (set r) [.v (seen e)])) ∧
        (∀ e r, l = e :: r → ok e → s.cycle < e.readied ∨ counted → exec (.qpop h x) s = .next (park s (.qready q 1))) ∧
        ((∀ e ∈ l, ok e) →
          (∀ e, l[x.cnt.toNat]? = some e → (∀ e ∈ l, e.readied ≤ s.cycle) → exec (.qpeek h x) s = .next (finishIn s [.v (seen e)])) ∧
          (∀ e ∈ l.take (x.cnt.toNat + 1), s.cycle < e.readied → exec (.qpeek h x) s = .next (park s (.qready q (x.cnt.toNat + 1)))) ∧
          (x.cnt.toNat ≤ l.length → (∀ e ∈ l, e.readied ≤ s.cycle) → ¬ counted →
            exec (.qdrop h x) s = .next (finishIn (set (l.drop x.cnt.toNat)) []))) ∧
        (l = [] → exec (.qpop h x) s = .next (park s (.qready q 1)))) ∧
      (let old := if isExe s.cur then l.filter fun e => decide (e.pushed ≤ s.cycle) else l
       let t := finishIn s [.s (BitVec.ofNat 64 (old.length % 32 + 256 * ((old.takeWhile fun e => e.status == .ready).length % 32)))]
       exec (.qcnt h x) s = .next (t.setCore core { s.core core with counts := tput 0 (s.core core).counts q (s.cycle + 1) }))


/-- R179-R182: flat loads and stores at every place, and the causes that stop them. -/
def Obligations.FlatAccesses : Prop := FlatLoads ∧ FlatStores ∧ FlatAccessCauses

/-- R179, R182, R263: loads and stores of the near store and bank memory of the thread's own die. The model's choices and readings
in it: notes/assumptions 14. -/
def Obligations.LocalAccesses : Prop := LocalLoads ∧ LocalStores
namespace Sys2Proof.Spec

open Sys2Proof Sys2Proof.Machine Sys2Proof.Safety

/-- The operation of each atomic (R198), and the number of its operands. -/
def atomics (h : Hdr) (x : FmtY) : List (Instr × AmoOp × Nat) :=
  [(.amoAdd h x, .add, 2), (.amoMin h x, .min, 2), (.amoMax h x, .max, 2), (.amoAnd h x, .and_, 2), (.amoOr h x, .or_, 2),
   (.amoXor h x, .xor_, 2), (.amoSwap h x, .swap, 2), (.amoCas h x, .cas, 3), (.amoFadd h x, .fadd, 2), (.amoMadd h x, .madd, 3)]

/-- The value v of a flag instruction (R204), its OPB read as `b`. -/
def flagVal (x : FmtY) (b : Word) : BitVec 32 := if x.typ = 0 then b.setWidth 32 else x.typ.zeroExtend 32

/-- The operands of a flag instruction that takes a value: a group when RMT is 1, a value when IMM7 is 0 (R62). -/
def flagReads (s : State) (x : FmtY) (value : Bool) (g b : Word) : Prop :=
  Reads s ((if x.opc.getLsbD 8 then [sc x.opa] else []) ++ if value && x.typ = 0 then [sc x.opb] else [])
    ((if x.opc.getLsbD 8 then [Val.s g] else []) ++ if value && x.typ = 0 then [Val.s b] else [])

/-- The group it addresses: its own, or OPA[5:0] (R62, R205). -/
def flagTo (s : State) (x : FmtY) (g : Word) : Nat := if x.opc.getLsbD 8 then g.toNat % 64 else groupOf (coreOf s.cur)

/-- The partition holds the group, live or in its shadow bank; a service core has no group of its own (R205, R357). -/
def flagHeld (s : State) (x : FmtY) (g : Word) : Prop :=
  flagFile s (partOf s (coreOf s.cur)) (flagTo s x g) ≠ .none ∧ (x.opc.getLsbD 8 = true ∨ isSvc (coreOf s.cur) = false)

end Sys2Proof.Spec

open Sys2Proof Sys2Proof.Machine Sys2Proof.Safety Sys2Proof.Spec

/-- R180, R198-R200: an atomic whose location is found, or the first cause over its bytes is raised; one homed on its own die and
ready there is performed at once and appends the old value; any other is on its way, and its thread waits for the reply, which it
then appends. The model's choices and readings in it: notes/assumptions 16, 95. -/
def Obligations.Atomics : Prop :=
  ∀ (s : State) (h : Hdr) (x : FmtY) (a b c : Word) (i : Instr) (op : AmoOp) (n : Nat),
    (i, op, n) ∈ atomics h x →
    let ty := (tyOf x.typ).getD .i64
    let at_ := flatLocs s s.cur a.toNat (ty.width / 8) (ty.width / 8) .atomic
    let two := Reads s [sc x.opa, sc x.opb] [.s a, .s b] ∧ n = 2 ∧ c = 0
    let three := Reads s [sc x.opa, sc x.opb, sc x.opc] [.s a, .s b, .s c] ∧ n = 3
    Runs s h → two ∨ three →
      (s.th.status = .running →
        (∀ t, at_ = .error t → exec i s = .next (raise s t)) ∧
        (∀ ls, at_ = .ok ls → Free s → OrderMet s x.ord.toNat x.scp.toNat →
          let s0 := askFlat s s.cur a.toNat
          let req := amoReq s op ty ls a.toNat b c
          let here := homeOf s0 req.place.store req.place.addr = dieOf (coreOf s.cur) ∧ amoReady s0 s.cur req = true
          (∀ pl w, ls = [(pl, w)] → req =
            { op, ty, place := pl, b, c, tag := (whoOf s s.cur).tag, trap := flatTrap 0x19 a.toNat }) ∧
          (here → ∀ old fl s1, amoPerform s0 s.cur req = .ok (old, fl, s1) →
            exec i s = .next (finishOrder s1 x.ord.toNat x.scp.toNat [.s (scalarOf ty old.toNat)] fl)) ∧
          (¬ here → exec i s = .next (park s0 (.amo req))))) ∧
      (∀ old fl, s.th.status = .waiting (.amoDone old fl) →
        exec i s = .next (finishOrder s x.ord.toNat x.scp.toNat [.s (scalarOf ty old.toNat)] fl))

/-- R198: what each atomic writes over an old value of a 64-bit or 32-bit natural type; `cas` writes only on a match, `madd` writes
the canonical residue, or zero with MODINV for an invalid modulus. -/
def Sys2Proof.Spec.AtomicValues : Prop :=
  ∀ (old : Nat) (b c : Word) (ty : Ty), ty = .n64 ∨ ty = .n32 → old < 2 ^ ty.width →
    let v := b.toNat % 2 ^ ty.width
    amoNew .add ty old b c = (some ((old + v) % 2 ^ ty.width), 0) ∧
    amoNew .min ty old b c = (some (Nat.min old v), 0) ∧
    amoNew .max ty old b c = (some (Nat.max old v), 0) ∧
    amoNew .and_ ty old b c = (some (Nat.land old v), 0) ∧
    amoNew .or_ ty old b c = (some (Nat.lor old v), 0) ∧
    amoNew .xor_ ty old b c = (some (Nat.xor old v), 0) ∧
    amoNew .swap ty old b c = (some v, 0) ∧
    amoNew .cas ty old b c = (if old = v then some (c.toNat % 2 ^ ty.width) else none, 0) ∧
    (∀ o, o < 2 ^ 64 → amoNew .madd .m64 o b c =
      if c.toNat % 2 = 1 ∧ 3 ≤ c.toNat ∧ c.toNat < 2 ^ 62 then (some ((o + b.toNat) % c.toNat), 0) else (some 0, fMOD))

/-- R198, R263: an atomic performed at a home on its own die: the old value is what stood there, the new one stands there after, and
every other byte reads to the partition as before. -/
def Sys2Proof.Spec.AtomicAtHome : Prop :=
  ∀ (s : State) (r : AmoReq) (old : Word) (fl : Flags) (s1 : State),
    let n := r.ty.width / 8
    let w := whoOf s s.cur
    r.tag = w.tag → r.ty.width = 32 ∨ r.ty.width = 64 → TablesOk s → MemWf s → LocalWrite s r.place n →
    r.place.addr % n = 0 → r.parts = [] → amoPerform s s.cur r = .ok (old, fl, s1) →
      old = BitVec.ofNat 64 (valueAt s r.place n) ∧
      (∀ v, (amoNew r.op r.ty (valueAt s r.place n) r.b r.c).1 = some v →
        ∀ k, k < n → readByte s1 w r.place.store (r.place.addr + k) = BitVec.ofNat 8 (v / 256 ^ k)) ∧
      (∀ st a, ¬ (st = r.place.store ∧ r.place.addr ≤ a ∧ a < r.place.addr + n) → readByte s1 w st a = readByte s w st a)

/-- R167, R169, R177, R201, R202, R274: a fence whose writes are visible goes on, and one that covers a lost write reports it. A
`sync` waits for the copies and markers of its core before it arrives (log 39); then it counts at its level, refreshes the
descriptor cache and goes on once every member has arrived with nothing of its own outstanding (log 39); until then it waits. A
thread of no launch is the only member. The model's choices and readings in it: notes/assumptions 39. -/
def Obligations.FencesAndBarriers : Prop :=
  ∀ (s : State) (h : Hdr) (x : FmtY),
    let core := coreOf s.cur
    let level := x.scp.toNat
    let n := tget s.th.syncs level 0 + 1
    let s1 := park (arrive s (partOf s core) level s.cur n) (.sync level)
    let copies := openCopies (s.core core)
    let returns := ∃ t, exec (.sync h x) s = .next t ∧
      t.th = { went s with syncs := tput 0 s.th.syncs level n } ∧ (t.core core).view = some (viewNow s) ∧
      (∀ d, (t.die d).hbm = (s.die d).hbm)
    Runs s h → Free s → s.th.status = .running → TablesOk s →
      (lostAt s.th level = none → OrderMet s x.ord.toNat level → Does (.fence h x) s []) ∧
      (∀ c, lostAt s.th level = some c →
        exec (.fence h x) s = .next (raise (s.setTh { s.th with lostWrites := s.th.lostWrites.drop 1 }) c)) ∧
      (copies ≠ [] → exec (.sync h x) s = .next (park s (.copies copies))) ∧
      (copies = [] → OrderMet s 2 (max 3 level) →
        (launchOf s core = none → returns) ∧
        (∀ l, launchOf s core = some l → barrierPast s1 core level n = false →
          (barrierFull s1 core level n = true → core ∈ membersOf s core level → (membersOf s core level).Nodup → returns) ∧
          (barrierFull s1 core level n = false → exec (.sync h x) s = .next s1)))

/-- R162, R204-R207, R292: flag and event instructions. A write goes out in order, `finc` always acknowledged; a `finc` under an
order that acquires goes on once its increment is performed at its home. A wait goes on at once where its condition has held since
before this cycle, and otherwise parks its thread until a cycle ends in which it holds; an increment of a poisoned flag of the own
die is 0x19; a group the partition does not hold is 0x15. The model's choices and readings in it: notes/assumptions 27, 40, 99, 100.
-/
def Obligations.FlagsAndEvents : Prop :=
  ∀ (s : State) (h : Hdr) (x : FmtY) (g b : Word),
    let p := partOf s (coreOf s.cur)
    let grp := flagTo s x g
    let i := (x.opc.extractLsb' 0 8).toNat
    let v := flagVal x b
    let d := dieOf (coreOf s.cur)
    let ends := fun (s1 : State) (vals : List Val) => Host.Outcome.next (finishOrder s1 x.ord.toNat x.scp.toNat vals)
    let issued := fun (op : WrOp) (mca : Bool) => issueWrite s (whoOf s s.cur) s.cur op mca 0 { cause := 0x1A }
    let out := fun (op : WrOp) (mca : Bool) => ends (issued op mca) []
    let acquires := x.ord.toNat = 1 ∨ x.ord.toNat = 3
    let mine := tget (s.die d).clock d 0 + 1
    let performed := fun (s1 : State) => ∀ w ∈ s1.writes, w.src = d → w.applied = false → w.lost = false → w.seq ≠ mine
    let lost := (flagAt s p grp i).poison = true ∧ sees s (.flags grp) (whoOf s s.cur) (flagAt s p grp i).tag = true ∧ grp / 16 = d
    let reached := fun (f : BitVec 32) => (f - v).toNat < 2 ^ 31 ∧ (flagAt s p grp i).moved ≤ s.cycle
    Runs s h →
      ((∃ k j u o c, s.th.status = .waiting (.flag k j u o c)) → flagReads s x true g b → flagHeld s x g → exec (.fwait h x) s = .next s) ∧
      ((∃ j o c, s.th.status = .waiting (.event j o c)) → exec (.evwait h x) s = .next s) ∧
      (s.th.status = .running → flagReads s x true g b → ¬ flagHeld s x g →
        ∀ k ∈ [Instr.finc h x, .fset h x, .fwait h x], exec k s = .next (raise s { cause := 0x15 })) ∧
      (s.th.status = .running → flagReads s x false g b → ¬ flagHeld s x g → exec (.fget h x) s = .next (raise s { cause := 0x15 })) ∧
      (s.th.status = .running → OrderMet s x.ord.toNat x.scp.toNat →
        (flagReads s x true g b → flagHeld s x g → Free s →
          (¬ lost → let s1 := issued (.flagInc grp i v) true
            (¬ acquires → exec (.finc h x) s = out (.flagInc grp i v) true) ∧
            (acquires → performed s1 → exec (.finc h x) s = .next (finishIn s1 [])) ∧
            (acquires → ¬ performed s1 → exec (.finc h x) s = .next (park s1 (.performed [mine])))) ∧
          (lost → exec (.finc h x) s = .next (raise s { cause := 0x19 })) ∧
          exec (.fset h x) s = out (.flagSet grp i v) (x.mca == 1) ∧
          (∀ f, flagRead s s.cur grp i = .ok f →
            (reached f → exec (.fwait h x) s = ends (observe s d (grp / 16)) []) ∧
            (¬ reached f → exec (.fwait h x) s = .next (park s (.flag grp i v x.ord.toNat x.scp.toNat))))) ∧
        (flagReads s x false g b → flagHeld s x g → ∀ f, flagRead s s.cur grp i = .ok f →
          exec (.fget h x) s = ends (observe s d (grp / 16)) [.s (f.zeroExtend 64)]) ∧
        (Free s → exec (.evset h x) s = out (.event p i true) (x.mca == 1) ∧
          exec (.evclr h x) s = out (.event p i false) (x.mca == 1) ∧
          ∀ e, eventRead s s.cur i = .ok e →
            let still := (tget (s.part p).events i {}).moved ≤ s.cycle
            (e = true → still → exec (.evwait h x) s = ends (observe s d 0) []) ∧
            (e = false ∨ ¬ still → exec (.evwait h x) s = .next (park s (.event i x.ord.toNat x.scp.toNat)))))

/-- R204, R205, R207, R263, R268: at its home a flag write of a partition's current generation, or in raw-access mode, leaves the
flag at its value, live or in the shadow bank, and every other flag as it was; one of an old generation is dropped and counted; so
for event writes, each of which sets its bit alone. -/
def Obligations.FlagAndEventHomes : Prop :=
  ∀ (s : State) (w : Who) (g i : Nat) (v : BitVec 32) (b : Bool),
    let p := tagPart w.tag
    TablesOk s →
      (w.raw = true ∨ w.current s (.flags g) = true → flagFile s p g ≠ .none →
        flagValue (performOp s w (.flagSet g i v)) w g i = v ∧
        flagValue (performOp s w (.flagInc g i v)) w g i = flagValue s w g i + v ∧
        ∀ op ∈ [WrOp.flagSet g i v, .flagInc g i v],
          (∀ g' j, (g', j) ≠ (g, i) → flagValue (performOp s w op) w g' j = flagValue s w g' j) ∧
          (∀ st a, readByte (performOp s w op) w st a = readByte s w st a)) ∧
      (w.raw = false → w.current s (.flags g) = false → flagFile s p g ≠ .none →
        performOp s w (.flagSet g i v) = countLate s p ∧ performOp s w (.flagInc g i v) = countLate s p) ∧
      (w.raw = true ∨ w.current s .events = true →
        eventSeen (performOp s w (.event p i b)) w p i = b ∧
        ∀ j, j ≠ i → eventSeen (performOp s w (.event p i b)) w p j = eventSeen s w p j) ∧
      (w.raw = false → w.current s .events = false → performOp s w (.event p i b) = countLate s p)

/-- R131-R135: tile instructions on a tile that no record holds. `trow` appends the row's bytes, `tdget` the field; the others go on
with the bytes written that the rules name. On a tile that is held they wait for the records and reservations that hold it, those
there when they were issued and no others: a record whose range meets the access, a reservation of the tile, each if either writes.
The model's choices and readings in it: notes/assumptions 36. -/
def Obligations.TileInstructions : Prop :=
  ∀ (s : State) (h : Hdr) (x : FmtS) (a : Word) (v : Val),
    let t := x.dst.toNat % 16
    let core := coreOf s.cur
    let w := whoOf s s.cur
    let writes := fun (off : Nat) (l : List Byte) => Host.Outcome.next (finishIn (tileWrite s w core t off l) [])
    let held := fun write => tileHolders s core t write
    let free := fun write => held write = ([], [])
    let sound := fun off n => poisonIn s w (.tiles core) (t * 0x8880 + off) n = none
    let bytes := fun off n => readBytes s w (.tiles core) (t * 0x8880 + off) n
    Runs s h →
      (s.th.status = .running → free false →
        (sound (512 * (x.aux.toNat % 64)) 512 → Does (.trow h x) s [.v (bytesVec (bytes (512 * (x.aux.toNat % 64)) 512))]) ∧
        (sound 0x8840 8 → x.aux = 0 → Does (.tdget h x) s [.s (BitVec.ofNat 64 (leNat (bytes 0x8840 8)))]) ∧
        (sound 0x8840 8 → x.aux = 3 → Does (.tdget h x) s [.s (BitVec.ofNat 64 (leNat (bytes 0x8840 8) / 2 ^ 16 % 2 ^ 11))])) ∧
      (s.th.status = .running → free true → Free s →
        (Reads s [vc x.opa] [v] →
          exec (.twrow h x) s = writes (512 * (x.aux.toNat % 64)) (vecBytes (v.vec 64)) ∧
          exec (.tscl h x) s = writes (0x8000 + 512 * (x.aux.toNat % 4)) (vecBytes (v.vec 64))) ∧
        (Reads s [sc x.opa] [.s a] → x.aux = 0 →
          exec (.tdset h x) s = writes 0x8840 (leBytes 8 (a &&& 0x07FF017F#64).toNat)) ∧
        (sound 0x8840 8 → sound 0 0x8000 →
          exec (.tbmap h x) s = writes 0x8800 (bitmapOf (tileDescOf (leNat (bytes 0x8840 8))) (bytes 0 0x8000))) ∧
        (∀ pl ws s1, Reads s [sc x.opa] [.s a] → 0xF0 ≤ a.toNat / 2 ^ 40 → flatPlace s s.cur a.toNat 0x8000 512 .load = .ok pl →
          readLocs s s.cur (unitLocs pl 0x8000) = .ok (ws, s1) →
          exec (.tfill h x) s = .next (finishIn (tileWrite s1 w core t 0 (ws.flatMap (leBytes 8))) [])) ∧
        (∃ z, exec (.tzero h x) s = .next z ∧ z.th = went s)) ∧
      (s.th.status = .running → ¬ free false → ∀ i ∈ [Instr.trow h x, .tdget h x],
        exec i s = .next (park s (.tile t false (held false).1 (held false).2))) ∧
      (s.th.status = .running → ¬ free true → Free s →
        let waits := fun i => exec i s = .next (park s (.tile t true (held true).1 (held true).2))
        (Reads s [vc x.opa] [v] → waits (.twrow h x) ∧ waits (.tscl h x)) ∧
        (Reads s [sc x.opa] [.s a] → waits (.tdset h x)) ∧ waits (.tzero h x) ∧ waits (.tbmap h x)) ∧
      (∀ w0 recs rsv, s.th.status = .waiting (.tile t true recs rsv) → Free s →
        let r := recs.filter (held true).1.contains
        let u := rsv.filter (held true).2.contains
        (r = [] → u = [] → Reads s [vc x.opa] [w0] →
          exec (.twrow h x) s = writes (512 * (x.aux.toNat % 64)) (vecBytes (w0.vec 64))) ∧
        (r ≠ [] ∨ u ≠ [] → exec (.tzero h x) s = .next (park s (.tile t true r u)))) ∧
      (∀ write, (∀ k, k ∈ (held write).1 ↔ ∃ r ∈ (s.core core).records, r.id = k ∧
          ∃ y ∈ rangesOf s core r, y.sp = .tile t ∧ (y.write = true ∨ write = true)) ∧
        (∀ k, k ∈ (held write).2 ↔ ∃ r ∈ (s.core core).reservations, (r.leader, r.rid) = k ∧
          r.tile = t ∧ (r.write = true ∨ write = true)))

/-- R126, R130, R132: what tile writes leave. After `twrow` the row reads as the vector's bytes and the row-group's bitmap word as
zero; every byte outside the row and that word reads as before. After `tzero` data and scales read zero and every
bitmap bit 1; every byte outside them reads as before. -/
def Obligations.TileContents : Prop :=
  ∀ (s : State) (h : Hdr) (x : FmtS) (v : Val),
    let t := x.dst.toNat % 16
    let core := coreOf s.cur
    let w := whoOf s s.cur
    let row := x.aux.toNat % 64
    let at_ := fun (z : State) off => readByte z w (.tiles core) (t * 0x8880 + off)
    Runs s h → s.th.status = .running → Free s → tileHolders s core t true = ([], []) → TablesOk s → MemWf s → w.raw = false → tagCurrent s (.tiles core) w.tag = true →
    (∀ o, owns s (tagPart w.tag) (.tiles core) o = true) →
      (Reads s [vc x.opa] [v] → ∃ z, exec (.twrow h x) s = .next z ∧ z.th = went s ∧
        (∀ k, k < 512 → at_ z (512 * row + k) = (v.vec 64).extractLsb' (8 * k) 8) ∧
        (∀ k, k < 8 → at_ z (0x8800 + 8 * (row / 8) + k) = 0) ∧
        (∀ st o, (st = .tiles core → o < t * 0x8880 + 512 * row ∨ t * 0x8880 + 512 * row + 512 ≤ o) →
          (st = .tiles core → o < t * 0x8880 + 0x8800 + 8 * (row / 8) ∨ t * 0x8880 + 0x8808 + 8 * (row / 8) ≤ o) →
          readByte z w st o = readByte s w st o)) ∧
      (∃ z, exec (.tzero h x) s = .next z ∧ z.th = went s ∧
        (∀ o, o < 0x8800 → at_ z o = 0) ∧ (∀ o, 0x8800 ≤ o → o < 0x8840 → at_ z o = 0xFF) ∧
        (∀ st o, (st = .tiles core → o < t * 0x8880 ∨ t * 0x8880 + 0x8840 ≤ o) → readByte z w st o = readByte s w st o))

/-- R136, R137: `lease` takes the core's claim, which may end a tenure that has done its work, and waits for its grant; with a claim
granted or taken by the other thread it goes on. `unlease` gives claim and tenure up once no plain matrix record is left. `mwait`
goes on when no matrix record and no reservation is left, and otherwise waits for exactly those there are. A service core has no
array: 0x21. -/
def Obligations.Leases : Prop :=
  ∀ (s : State) (h : Hdr) (x : FmtS),
    let core := coreOf s.cur
    let l := (s.core core).lease
    Runs s h →
      (isSvc core = true → exec (.lease h x) s = .next (raise s { cause := 0x21 })) ∧
      (isSvc core = false → Free s →
        (l.claim = false → exec (.lease h x) s = .next (park (settleTenure (setLease s core
          { l with claim := true, asker := some s.cur, waitFrom := s.cycle }) (groupOf core)) .lease)) ∧
        (l.claim = true → l.asker ≠ some s.cur → Does (.lease h x) s []) ∧
        (l.claim = true → l.asker = some s.cur → exec (.lease h x) s = .next (park s .lease))) ∧
      (l.claim = false → Does (.unlease h x) s []) ∧
      (l.claim = true → (s.core core).matQ.any (·.op.isPlain) = false → Free s →
        exec (.unlease h x) s = .next (finishIn (s.setCore core { s.core core with
          lease := { l with claim := false, tenure := false, asker := none, recs := 0, completed := false } }) [])) ∧
      (l.claim = true → (s.core core).matQ.any (·.op.isPlain) = true → exec (.unlease h x) s = .next (park s .unlease)) ∧
      (s.th.status = .running → Free s →
        let recs := ((s.core core).matQ.filter (·.op.isMatrix)).map (·.id)
        let rsv := (s.core core).reservations.map fun r => (r.leader, r.rid)
        (recs = [] → rsv = [] → Does (.mwait h x) s []) ∧
        (recs ≠ [] ∨ rsv ≠ [] → exec (.mwait h x) s = .next (park s (.mwait recs rsv)))) ∧
      (∀ recs rsv, s.th.status = .waiting (.mwait recs rsv) →
        let r := recs.filter fun k => (s.core core).matQ.any fun y => y.op.isMatrix && y.id == k
        let u := rsv.filter fun k => (s.core core).reservations.any fun y => (y.leader, y.rid) == k
        (r = [] → u = [] → Does (.mwait h x) s []) ∧ (r ≠ [] ∨ u ≠ [] → exec (.mwait h x) s = .next (park s (.mwait r u))))


/-- R198, R263: what an atomic does at its home. -/
def Obligations.AtomicEffects : Prop := AtomicValues ∧ AtomicAtHome

namespace Sys2Proof.Spec

open Sys2Proof Sys2Proof.Machine Sys2Proof.Safety

/-- The record an issue makes: the core's next number, the issuing thread and its pc, the eight words, the override scalars,
the issuing partition's tag, and its place in the order of issue (R243, R67, R222). -/
def issued (s : State) (op : RecOp) (x : FmtR) (vs : List Val) : Rec :=
  { id := (s.core (coreOf s.cur)).nextRec, op, exe := isExe s.cur, pc := s.th.pc, r := x, ov := vs.map (·.word),
    tag := (whoOf s s.cur).tag, issued := s.issues }

/-- A thread goes on past the eight words of a record, with its core as given. -/
def goesPast (s : State) (c : Core) : Host.Outcome State Fault Refusal :=
  .next (finishIn ({ s with issues := s.issues + 1 }.setCore (coreOf s.cur) c) [] 0 64)

/-- The matrix queue has taken a record. -/
def inMatQ (c : Core) (r : Rec) : Core := { c with matQ := c.matQ ++ [r], nextRec := c.nextRec + 1 }
/-- The copy queue has. -/
def inCopyQ (c : Core) (r : Rec) : Core := { c with copyQ := c.copyQ ++ [r], nextRec := c.nextRec + 1 }

/-- Copy records that only enter their queue (R249, R252-R254, R256, R258). -/
def copies (h : Hdr) (x : FmtR) : List (Instr × RecOp) :=
  [(.cpcv h x, .cpcv), (.cpdz h x, .cpdz), (.cpbk h x, .cpbk), (.mig h x, .mig), (.migrep h x, .migrep)]

/-- Privileged words without operands, with one scalar and with two (R298). -/
def privileged0 (h : Hdr) (x : FmtS) : List Instr :=
  [.halt h x, .tret h x, .idle h x, .rawEnter h x, .rawLeave h x, .rawLock h x]
def privileged1 (h : Hdr) (x : FmtS) : List Instr :=
  [.dawn h x, .dusk h x, .sweep h x, .part h x, .ctxsave h x, .ctxrest h x, .tdsync h x, .cutmark h x, .pull h x]
def privileged2 (h : Hdr) (x : FmtS) : List Instr := [.tlbi h x, .tcinv h x]

/-- A service thread runs a privileged instruction (R298). -/
def Supervisor (s : State) (h : Hdr) : Prop := Runs s h ∧ isSvc (coreOf s.cur) = true ∧ s.th.status = .running

/-- No other service thread is at an instruction on the partition (R300), and the partition number is one of 0 to 15. -/
def Alone (s : State) (p : Nat) : Prop := (s.part p).ctlQ = [] ∧ p < 16

/-- The partition with its place in the order of R300 given up: of an `Alone` partition, the partition as it was. -/
def freed (s : State) (p : Nat) (q : Part) : State := s.setPart p { q with ctlQ := [] }

end Sys2Proof.Spec

open Sys2Proof Sys2Proof.Machine Sys2Proof.Safety Sys2Proof.Spec

/-- R137, R219, R243, R250, R251, R255, R259: engine records as their issue leaves them. A record enters its queue and its thread
goes on past the eight words. A plain matrix record needs a claim (0x21) and waits for its grant; a full queue is waited for, and so
is a queue with too few entries by a `cp` that takes them; `mmod` takes its modulus at issue; a collective takes its number; a
`note` with no record ahead sets its bit at once; a queue end against R250 and R251 is 0x20 with reason 0x0D. -/
def Obligations.RecordIssue : Prop :=
  ∀ (s : State) (h : Hdr) (x : FmtR) (vs : List Val),
    let core := coreOf s.cur
    let c := s.core core
    let ws := vs.map (·.word)
    let r := fun op => issued s op x vs
    let md := { r .mmod with q := tget s.th.mods (x.aux.toNat % 8) 0 }
    let bad := fun reason => Host.Outcome.next (raise s
      { cause := 0x20, reason, eng := true, kind := 1, info := s.th.pc.toNat, issue := s.th.pc.toNat })
    let plain := [(Instr.mmul h x, r .mmul), (.mmod h x, md), (.mtr h x, r .mtr)]
    let ends := x.w2.extractLsb' 59 5 = 9 ∨ x.w4.extractLsb' 59 5 = 9
    Runs s h → Reads s (overrides x) vs → Free s →
      (c.lease.claim = true → isSvc core = false →
        (c.lease.tenure = true → c.lease.lender = none → ∀ i ∈ plain,
          (c.matQ.length < 16 → exec i.1 s = goesPast s (inMatQ c i.2)) ∧
          (16 ≤ c.matQ.length → exec i.1 s = .next (park s (.recSpace true false false)))) ∧
        (c.lease.tenure = false → ∀ i ∈ plain, exec i.1 s = .next (park s .lease))) ∧
      (c.lease.claim = false ∨ isSvc core = true → ∀ i ∈ plain, exec i.1 s = .next (raise s { cause := 0x21 })) ∧
      (c.matQ.length < 16 → exec (.mmulc h x) s = goesPast s (inMatQ c (r .mmulc))) ∧
      (16 ≤ c.matQ.length → exec (.mmulc h x) s = .next (park s (.recSpace true false false))) ∧
      (c.copyQ.length < 32 → (∀ i ∈ copies h x, exec i.1 s = goesPast s (inCopyQ c (r i.2))) ∧
        (¬ ends → exec (.cp h x) s = goesPast s (inCopyQ c (r .cp)))) ∧
      (32 ≤ c.copyQ.length → (∀ i ∈ copies h x, exec i.1 s = .next (park s (.recSpace false true false))) ∧
        (queueEndBad s x ws = false → exec (.cp h x) s = .next (park s (.recSpace false true false)))) ∧
      (ends → queueEndBad s x ws = true → exec (.cp h x) s = bad 0x0D) ∧
      (queueEndBad s x ws = false → c.copyQ.length < 32 →
        let n := queueEndCount s x ws
        let d0 := (rd0 x ws).base % 8
        let d1 := (rd1 x ws).base % 8
        (x.w2.extractLsb' 59 5 = 9 → queueLen s core d0 + n ≤ 16 →
          exec (.cp h x) s = .next (enterQueue copyQs (reserveSlots s d0 n c.nextRec (r .cp).tag) (r .cp))) ∧
        (x.w2.extractLsb' 59 5 = 9 → 16 < queueLen s core d0 + n → exec (.cp h x) s = .next (park s (.qspace d0 n))) ∧
        (x.w2.extractLsb' 59 5 ≠ 9 → x.w4.extractLsb' 59 5 = 9 → n ≤ (freeEntries (entriesOf s core d1)).length →
          exec (.cp h x) s = .next (enterQueue copyQs
            (setQueue s core d1 (reserveOldest c.nextRec n (entriesOf s core d1))) (r .cp))) ∧
        (x.w2.extractLsb' 59 5 ≠ 9 → x.w4.extractLsb' 59 5 = 9 → (freeEntries (entriesOf s core d1)).length < n →
          exec (.cp h x) s = .next (park s (.qheld d1 n)))) ∧
      (c.collQ.length < 8 → exec (.coll h x) s = .next (enterQueue collQs
        (s.setCore core { c with colls := tput 0 c.colls x.scp.toNat (tget c.colls x.scp.toNat 0 + 1) })
        { r .coll with collNo := tget c.colls x.scp.toNat 0 + 1 })) ∧
      (8 ≤ c.collQ.length → exec (.coll h x) s = .next (park s (.recSpace false false true))) ∧
      (noteOk x = false → exec (.note h x) s = bad 0x05) ∧
      (noteOk x = true → hasRoom c (noteQueues x) = false → exec (.note h x) s =
        .next (park s (.recSpace (x.aux.getLsbD 0) (x.aux.getLsbD 1) (x.aux.getLsbD 2)))) ∧
      (noteOk x = true → hasRoom c (noteQueues x) = true →
        let ahead := aheadOf c (noteQueues x)
        (ahead = [] → exec (.note h x) s = .next (finishIn (noteEvent s s.cur (r .note).tag x) [] 0 64)) ∧
        (ahead ≠ [] → exec (.note h x) s = .next (enterQueue (noteQueues x) s { r .note with ahead })))

/-- R298: every word of major 0xD but `slotld` raises 0x08 outside partition 0, with no other effect, where it is enabled and its
operands are readable. -/
def Obligations.Privilege : Prop :=
  ∀ (s : State) (h : Hdr) (x : FmtS), Runs s h → partOf s (coreOf s.cur) ≠ 0 →
    let denied := fun i => exec i s = .next (raise s { cause := 0x08, kind := 1, info := s.th.pc.toNat })
    (∀ i ∈ privileged0 h x, denied i) ∧
    (∀ a, Reads s [sc x.opa] [.s a] → ∀ i ∈ privileged1 h x, denied i) ∧
    (∀ a b, Reads s [sc x.opa, sc x.opb] [.s a, .s b] → ∀ i ∈ privileged2 h x, denied i)

/-- R235, R279-R283, R296: `brk` and `trap` take causes 0x31 and 0x30 with their code. Taking a cause on a tenant core stops its
thread with TRAPINFO and SEQ set and its registers as they stood, leaves the 0x32 of a finished step pending (R286), writes the trap
record but for CONTROL, and signals the service core; nothing else of memory changes. On a service core it is a firmware failure.
The model's choices and readings in it: notes/assumptions 10, 65, 84. -/
def Obligations.TakingCauses : Prop :=
  (∀ (s : State) (h : Hdr) (y : FmtB), Runs s h → Free s →
    exec (.brk h y) s = .next (takeCause s s.cur { cause := 0x31, info := y.off.toNat, issue := y.off.toNat }) ∧
    exec (.trap h y) s = .next (takeCause s s.cur { cause := 0x30, info := y.off.toNat, issue := y.off.toNat })) ∧
  ∀ (s : State) (tid : Nat) (c : Trap),
    let core := coreOf tid
    let t := s.thread tid
    let pend := t.pend ++ (if t.stepMode = .fired then [{ cause := 0x32 }] else [])
    let s1 := takeCause s tid c
    (isSvc core = true → s1.firmware = .failed) ∧
    (isSvc core = false → c.errAt = none →
      s1.thread tid = { t with
        status := .trapped, seq := t.seq + 1, pend, stepMode := .none, soft := false, hard := false, blk := none, ansRec := c.rid, cont := c.cause == 0x30 || c.cause == 0x31,
        trapinfo := BitVec.ofNat 64 (c.info % 2 ^ 48 * 2 ^ 16 + c.reason % 256 * 2 ^ 8 + c.kind % 4 * 2 ^ 6 + c.cause % 64),
        fin := t.fin || t.status == .done } ∧
      (∀ j, j ≠ tid → s1.thread j = s.thread j) ∧ s1.cores = s.cores ∧ s1.groups = s.groups ∧
      (TablesOk s → MemWf s →
        (s1.die (dieOf core)).notices = (s.die (dieOf core)).notices ++ [.trap core (tid % 2)] ∧
        ∀ d a, flat0 (trapAddr s core (tid % 2)) = some (d, a) → a + 128 ≤ Config.hbmBytes →
          (∀ u, a / 64 ≤ u → u ≤ (a + 127) / 64 → owns s 0 (.hbm d) (64 * u) = true ∧ passes s (who0 s) (.hbm d) (64 * u) = true) →
          (∀ k, k < 88 → readByte s1 (who0 s) (.hbm d) (a + k) = (trapRecord s tid c (!pend.isEmpty)).getD k 0) ∧
          (∀ k, 96 ≤ k → k < 128 → readByte s1 (who0 s) (.hbm d) (a + k) = 0) ∧
          ∀ st b, ¬ (st = .hbm d ∧ (a ≤ b ∧ b < a + 88 ∨ a + 96 ≤ b ∧ b < a + 128)) →
            readByte s1 (who0 s) st b = readByte s (who0 s) st b))

/-- R264, R265, R267, R288, R299-R304: instructions on a partition's control state, one service thread at a time; `halt`, `ctxsave`
and `ctxrest` wait while a switch of the partition, one that brings it in, or its removal is in progress. -/
def Sys2Proof.Spec.PartitionControl : Prop :=
  ∀ (s : State) (h : Hdr) (x : FmtS) (a : Word),
    let p := a.toNat
    let q := s.part p
    let d := dieOf (coreOf s.cur)
    let tp := targetPart (s.die d).target
    let result := fun (s1 : State) (r : Nat) =>
      finishIn (s1.setDie d { s1.die d with target := setResult (s1.die d).target r }) []
    let status := fun (s1 : State) (n : Nat) => finishIn s1 [.s (BitVec.ofNat 64 n)]
    Supervisor s h → Reads s [sc x.opa] [.s a] →
      -- an argument that names no tenant
      (16 ≤ p → Does (.dawn h x) s []) ∧
      (p = 0 ∨ 16 ≤ p → (∀ i ∈ [Instr.dusk h x, .sweep h x, .ctxsave h x, .ctxrest h x], exec i s = .next (status s 2)) ∧
        exec (.part h x) s = .next (result s 1)) ∧
      (tp = 0 → exec (.halt h x) s = .next (result s 6)) ∧
      -- another service thread is before this one
      (∀ t l, q.ctlQ = t :: l → t ≠ s.cur → atControl s p t = true → 0 < p → p < 16 →
        ∀ i ∈ [Instr.dawn h x, .dusk h x, .sweep h x, .ctxsave h x, .ctxrest h x],
          exec i s = .next (park (joinControl s p) (.control p))) ∧
      (Alone s p → q.isOpen = true → exec (.dawn h x) s = .next (finishIn (freed s p q) [])) ∧
      (Alone s p → q.isOpen = false → exec (.dawn h x) s = .next (finishIn
        { freed s p { q with isOpen := true, resume := q.resume || q.saved, resumeFrom := s.slot + 1 } with tenantRan := s.tenantRan || p != 0 } [])) ∧
      (Alone s p → 0 < p →
        (q.groups = 0 → ∀ i ∈ [Instr.dusk h x, .ctxsave h x, .ctxrest h x], exec i s = .next (status (freed s p q) 2)) ∧
        (q.groups ≠ 0 → succGen p q.gen = q.low → exec (.dusk h x) s = .next (status (freed s p q) 1)) ∧
        (s.sweeps.any (·.part == p) = true → exec (.sweep h x) s = .next (status (freed s p q) 1)) ∧
        (s.sweeps.any (·.part == p) = false → exec (.sweep h x) s = .next (status
          { freed s p q with sweeps := s.sweeps ++ [{ part := p, s := q.gen, asked := some d }] } 0)) ∧
        (q.groups ≠ 0 → q.isOpen = true → exec (.ctxrest h x) s = .next (status (freed s p q) 1)) ∧
        (q.groups ≠ 0 → q.isOpen = false →
          exec (.ctxrest h x) s = .next (if busySwitch s p then park (joinControl s p) (.control p) else restAll (joinControl s p) p)) ∧
        (q.groups ≠ 0 → saveOwned s p (ownedGroups s p).length = false → exec (.ctxsave h x) s = .next (status (freed s p q) 3)) ∧
        (q.groups ≠ 0 → saveOwned s p (ownedGroups s p).length = true →
          exec (.ctxsave h x) s = .next (if busySwitch s p then park (joinControl s p) (.control p)
            else saveWait (saveStart (joinControl s p) p) p)) ∧
        ((s.die d).pcfg.toNat % 256 ≠ 0 → exec (.part h x) s = .next (result s 1)) ∧
        ((s.die d).pcfg.toNat % 256 = 0 → ∀ pl ws s1,
          flatPlace s s.cur (s.die d).pcfg.toNat 256 256 .load = .ok pl →
          readLocs (joinControl s p) s.cur (unitLocs pl 256) = .ok (ws, s1) →
            exec (.part h x) s = .next (partApply s1 p (ws.flatMap (leBytes 8))))) ∧
      (Alone s tp → 0 < tp →
        exec (.halt h x) s = .next (if busySwitch s tp then park (joinControl s tp) (.control tp)
          else park (removalStart (joinControl s tp) tp) (.halt tp (s.part tp).gen)))

/-- R265, R266, R288, R301: what `dusk` leaves. The partition is closed under its next generation, with no launch left and the
threads of its cores discarded; nothing reads under the ended generation any more, and what stands under it reads as zero under the
next; with no record running and every checking point at the next generation `dusk` returns 0, its sessions and objects ended, and
otherwise it waits. `halt` ends with RESULT 5 when the generation did not advance. The model's choices and readings in it:
notes/assumptions 41, 42, 70. -/
def Obligations.DuskAndHalt : Prop :=
  (∀ (s : State) (h : Hdr) (x : FmtS) (a : Word),
    let p := a.toNat
    let q := s.part p
    let quiet := ∀ c ∈ liveCores s p, ∀ r ∈ (s.core c).records, r.status ≠ .running
    Supervisor s h → Reads s [sc x.opa] [.s a] → Alone s p → 0 < p → q.groups ≠ 0 → succGen p q.gen ≠ q.low → TablesOk s →
      ∃ t, exec (.dusk h x) s = .next t ∧
        (t.part p).isOpen = false ∧ (t.part p).gen = succGen p q.gen ∧ (t.part p).launches = [] ∧ (t.part p).behind = q.slow ∧
        (∀ c ∈ liveCores s p, (t.thread (2 * c)).status = .off ∧ (t.thread (2 * c + 1)).status = .off) ∧
        (q.slow = [] → ∀ st b, (∀ d, st ≠ .dev d) → readByte t { tag := tagOf s p } st b = 0 ∧
          ((memOf t st).tag (unitOf st b) = tagOf s p → readByte t { tag := tagOf t p } st b = 0)) ∧
        (quiet → q.slow = [] →
          t.th = finishThread s.th [.s 0] 0 ∧ (t.part p).sessions = [] ∧ (t.part p).objects = []) ∧
        (q.slow ≠ [] → t.th.status = .waiting (.dusk p)) ∧
        ((∃ c ∈ liveCores s p, ∃ r ∈ (s.core c).records, r.status = .running ∧ r.op ≠ .note ∧ r.op ≠ .coll) → q.saved = false →
          liveAll s p = true → t.th.status = .waiting (.dusk p))) ∧
  ∀ (s : State) (h : Hdr) (x : FmtS) (p : Nat) (gen : BitVec 8), Runs s h → isSvc (coreOf s.cur) = true →
    s.th.status = .waiting (.halt p gen) →
      ((s.part p).removal ≠ none → exec (.halt h x) s = .next (park s (.halt p gen))) ∧
      ((s.part p).removal = none → exec (.halt h x) s =
        .next (endResult (leaveControl s p) (if (s.part p).gen = gen ∧ (s.part p).groups ≠ 0 then 5 else 0)))

/-- R302: a block is bad in the cases the rule lists: a nonzero reserved byte or bit, a WEIGHT of 0, a BKBASE above BKLIM or either
off a multiple of 64, a region whose base or length is no multiple of 2 MiB or whose base has a bit above [39:0], a region of
another tenant, or a group whose live place and shadow bank other tenants hold. `part` refuses a bad block with RESULT 1; an open
partition takes WEIGHT, SLOTS and INGRESS and RESULT is 2; a closed one takes every field and RESULT is 0. -/
def Sys2Proof.Spec.PartitionBlocks : Prop :=
  ∀ (s : State) (p : Nat) (l : List Byte),
    let n := fun o k => blockNat l o k
    let base := fun d => n (0x60 + 16 * d) 8
    let len := fun d => n (0x68 + 16 * d) 8
    let other := fun q => q ≠ 0 ∧ q ≠ p
    (blockBad s p l = true ↔
      (∃ o, (0x39 ≤ o ∧ o < 0x3C ∨ 0xC0 ≤ o ∧ o < 0x100) ∧ l.getD o 0 ≠ 0) ∨
      (∃ i, i < 4 ∧ 2 ^ 17 ≤ n (0xA0 + 8 * i) 8) ∨
      n 0x38 1 = 0 ∨ n 0x34 4 < n 0x30 4 ∨ n 0x30 4 % 64 ≠ 0 ∨ n 0x34 4 % 64 ≠ 0 ∨
      (∃ d, d < 4 ∧ (base d % 2 ^ 21 ≠ 0 ∨ len d % 2 ^ 21 ≠ 0 ∨ 2 ^ 40 ≤ base d ∨
        ∃ e ∈ s.owners, e.1 / 2 ^ 20 = d ∧ other e.2 ∧
          base d ≤ e.1 % 2 ^ 20 * 2 ^ 21 ∧ e.1 % 2 ^ 20 * 2 ^ 21 < base d + len d)) ∨
      ∃ g, g < 64 ∧ (n 0 8).testBit g = true ∧
        ∃ q c, (s.group g).live = some q ∧ (s.group g).shadow = some c ∧ q ≠ p ∧ c.part ≠ p) ∧
    (blockBad s p l = true → partApply s p l = endResult (leaveControl s p) 1) ∧
    (blockBad s p l = false → (s.part p).isOpen = true → partApply s p l = endResult (leaveControl (applyOpen s p l) p) 2) ∧
    (blockBad s p l = false → (s.part p).isOpen = false → partApply s p l = endResult (leaveControl (applyClosed s p l) p) 0) ∧
    (n 0x38 1 ≠ 0 →
      let o := (applyOpen s p l).part p
      o.weight = n 0x38 1 ∧ o.slots = BitVec.ofNat 256 (n 0x40 32) ∧ o.groups = (s.part p).groups ∧ o.tdt = (s.part p).tdt ∧
      o.ingress.length = 4 ∧
      let c := (applyClosed s p l).part p
      c.weight = n 0x38 1 ∧ c.slots = o.slots ∧ c.groups = BitVec.ofNat 64 (n 0 8) ∧ c.lbase = n 0x08 8 ∧ c.tdt = n 0x10 8 % 2 ^ 48 ∧
      c.trapbase = n 0x18 8 ∧ c.framebase = n 0x20 8 ∧ c.savebase = n 0x28 8 ∧ c.bkbase = n 0x30 4 ∧ c.bklim = n 0x34 4 ∧
      c.repl = n 0x3C 4)

/-- R268, R272, R274, R283, R292, R299, R305-R309: the other system instructions. `tcinv` drops the partition's blocks that meet the
range, below 2^48, and nothing else; RESULT 0 after `pull` is the model's choice (log 92). The model's choices and readings in it:
notes/assumptions 44, 48, 49, 50, 51, 91, 92. -/
def Obligations.SystemForms : Prop :=
  ∀ (s : State) (h : Hdr) (x : FmtS) (a b : Word),
    let d := dieOf (coreOf s.cur)
    let die := s.die d
    let tp := targetPart die.target
    let tid := 2 * (64 * d + (die.target.extractLsb' 8 6).toNat) + (die.target.extractLsb' 16 1).toNat
    let done := fun (s1 : State) (r : Nat) => finishIn (s1.setDie d { s1.die d with target := setResult (s1.die d).target r }) []
    let result := fun (s1 : State) (r : Nat) => Host.Outcome.next (done s1 r)
    let k := a.toNat % 2 ^ 13
    -- the first poisoned structure of what the instruction uses: the descriptor, and the shard map of the flat tensor
    let lost := descPoison s none tp k <|>
      (if k = 0 then devPoison s none (liveDesc s tp k).smap (64 * ((liveDesc s tp k).scnt + 1)) else none)
    let poisoned := fun at_ => Host.Outcome.next (raise s { tensorTrap 0x19 k [] with errAt := some at_ })
    (Supervisor s h →
      (Reads s [sc x.opa, sc x.opb] [.s a, .s b] →
        (lost = none → exec (.tlbi h x) s = result (shootDown s tp k b.toNat (x.aux.toNat % 4)) 0) ∧
        (∀ at_, lost = some at_ → exec (.tlbi h x) s = poisoned at_) ∧
        (b = 0 → exec (.tcinv h x) s = result s 0) ∧
        (b ≠ 0 → let hi := min (a.toNat + b.toNat) (2 ^ 48)
          exec (.tcinv h x) s = result (dropBlocks s tp a.toNat hi) 0 ∧
          let stays := fun (bl : Block) => bl.part != tp || decide (hi ≤ bl.addr) || decide (bl.addr + 8 * bl.words.length ≤ a.toNat)
          dropBlocks s tp a.toNat hi =
            { s with dies := s.dies.map fun e => (e.1, { e.2 with tcache := e.2.tcache.filter stays }) })) ∧
      (Reads s [sc x.opa] [.s a] →
        (∀ at_, lost = some at_ → exec (.tdsync h x) s = poisoned at_) ∧
        (lost = none → (liveDesc s tp k).rank ≠ 0 → versionSeen s tp k = false → Does (.tdsync h x) s [.s 1]) ∧
        (lost = none → (liveDesc s tp k).rank = 0 → Does (.tdsync h x) s [.s 0]) ∧
        (lost = none → (liveDesc s tp k).rank ≠ 0 → versionSeen s tp k = true →
          exec (.tdsync h x) s = .next (finishIn { s with replicas := s.replicas.filter fun r =>
            !(r.part == tp && r.handle == k && r.version != (liveDesc s tp k).version) } [.s 0])) ∧
        (∃ t c, exec (.cutmark h x) s = .next t ∧ t.th.status = .waiting (.cut (a.toNat % 2 ^ 16)) ∧
          t.out = s.out ++ [.marker (a.toNat % 2 ^ 16)] ∧ c ∈ t.cuts ∧ c.job = a.toNat % 2 ^ 16 ∧ c.tid = s.cur) ∧
        (tp = 0 ∨ (s.part tp).migsrc = 0xFFFF → exec (.pull h x) s =
          .next (finishIn (s.setDie d { die with target := setResult die.target 0 }) [.s 3])) ∧
        (∀ l, tp ≠ 0 → (s.part tp).migsrc ≠ 0xFFFF → pullPoison s tp (liveDesc s tp 0) [a.toNat, 0, 0, 0] = some l →
          exec (.pull h x) s = .next (raise s { cause := 0x19, kind := 1, info := a.toNat, errAt := some l })) ∧
        (∀ e lvl pa pte, tp ≠ 0 → (s.part tp).migsrc ≠ 0xFFFF → pullPoison s tp (liveDesc s tp 0) [a.toNat, 0, 0, 0] = none →
          coordsOk (liveDesc s tp 0) [a.toNat, 0, 0, 0] = true →
          findShard s none (liveDesc s tp 0) 0 [a.toNat, 0, 0, 0] ((liveDesc s tp 0).scnt + 1) 0 = some e → shardLocal s e = true →
          let page := (pageOf (liveDesc s tp 0) e [a.toNat, 0, 0, 0]).1
          let home := shardDie e [a.toNat, 0, 0, 0]
          pullLeaf s home e.root page = some (lvl, pa, pte) →
            (pte.v = true → exec (.pull h x) s =
              .next (finishIn (s.setDie d { die with target := setResult die.target 0 }) [.s 2])) ∧
            (pte.v = false → pte.frame ≠ 0 → exec (.pull h x) s = .next (pullPage s tp home lvl pa pte)))) ∧
      ((s.thread tid).status ≠ .trapped → exec (.tret h x) s = result s 3) ∧
      (∀ e w ws s1, (s.thread tid).status = .trapped → flat0 (trapAddr s (tid / 2) (tid % 2) + 0x58) = some (e, w) →
        readLocs s s.cur (unitLocs { store := .hbm e, addr := w } 8) = .ok (ws, s1) →
          (1 < ws.headD 0 → exec (.tret h x) s = result s1 3) ∧
          (ws.headD 0 ≤ 1 → exec (.tret h x) s = .next (pendFirst (done (releaseRec (s1.setThread tid
            (tretThread (s1.thread tid) (goesOn s1 (tid / 2)) (ws.headD 0 == 1))) (tid / 2) (s1.thread tid).ansRec) 0) tid))) ∧
      (die.notices = [] → exec (.idle h x) s = .next (park s .idle)) ∧
      (∀ n l, die.notices = n :: l → exec (.idle h x) s = .next (finishIn (s.setDie d { die with notices := l }) [])) ∧
      (s.rawLocked = true → exec (.rawEnter h x) s = result s 4) ∧
      -- an entry does nothing more in its cycle, in which a lock stepped later still turns it away
      (s.rawLocked = false → exec (.rawEnter h x) s =
        result { s.setDie d { die with raw := true, rawAt := some (s.cycle, s.rawEntered) } with
                 rawEntered := true, lastSource := sourceRank (coreOf s.cur) false + 2 } 0) ∧
      exec (.rawLeave h x) s = result (s.setDie d { die with raw := false }) 0 ∧
      (TablesOk s → ∃ t, exec (.rawLock h x) s = .next t ∧ t.rawLocked = true ∧ ∀ j, j < 4 → (t.die j).raw = false ∧
        (j ≠ d → ∀ c was, (s.die j).rawAt = some (c, was) →
          (t.die j).target = if c = s.cycle then setResult (s.die j).target 4 else (s.die j).target))) ∧
    (Runs s h → Free s → Reads s [sc x.opa] [.s a] →
      let first := x.aux.toNat % 256
      let n := x.aux.toNat / 256 + 1
      ∀ ps, imagePlaces s a.toNat n = .ok ps →
        let mine := fun i => ownsSlot s (partOf s (coreOf s.cur)) (first + i)
        let firstNot := fun i => i < n ∧ mine i = false ∧ ∀ j, j < i → mine j = true
        let refused := fun i => Host.Outcome.next (raise s { cause := 0x11, kind := 1, info := a.toNat + 8 * i })
        -- of several causes the first of R284: a refused entry, a slot of another partition, poisoned data
        (∀ vals s1, readLocs s s.cur ps.flatten = .ok (vals, s1) →
          let ws := joinEach ps vals
          let s2 := askEntries s1 a.toNat n
          (ws.any slotBad = true → exec (.slotld h x) s = .next (raise s { cause := 0x01, kind := 1, info := s.th.pc.toNat })) ∧
          (ws.any slotBad = false → ∀ i, firstNot i → exec (.slotld h x) s = refused i) ∧
          (ws.any slotBad = false → (∀ i, i < n → mine i = true) → exec (.slotld h x) s = .next (finishIn
            (s2.setDie d { s2.die d with slotPending := (s2.die d).slotPending ++ [(s2.slot, first, ws)] }) []))) ∧
        (∀ c, readLocs s s.cur ps.flatten = .error (.cause c) →
          (∀ i, firstNot i → exec (.slotld h x) s = refused i) ∧
          ((∀ i, i < n → mine i = true) →
            exec (.slotld h x) s = .next (raise s { cause := c, kind := 1, info := a.toNat }))))

/-- R264, R265, R267, R288, R299-R304: instructions on a partition, and the block of `part`. The model's choices and readings in it:
notes/assumptions 42, 43, 46, 47. -/
def Obligations.PartitionInstructions : Prop := PartitionControl ∧ PartitionBlocks

namespace Sys2Proof.Spec

open Sys2Proof Sys2Proof.Machine Sys2Proof.Safety

/-- The step answers this state. -/
abbrev To (i : Instr) (s t : State) : Prop := exec i s = .next t

/-- The frame's page mode (21 R336). -/
def modeOf (s : State) (die frame : Nat) : PageMode := tget s.pageModes (die * 2 ^ 28 + frame) {}

/-- The codes a matrix record multiplies: type, bits of a code and bits of its container (R75, R87, R128). -/
def codeTypes : List (Ty × Nat × Nat) :=
  [(.i4, 4, 4), (.i8, 8, 8), (.mx4, 4, 4), (.mx6, 6, 8), (.mx8, 8, 8), (.mx10, 10, 16), (.mx12, 12, 16), (.mx14, 14, 16), (.mx16, 16, 16)]
/-- Code `k` of a row, signed. -/
def codeAt (bits cont : Nat) (m : MTile) (row k : Nat) : Int := signedOf bits (m.rows.getD row 0 / 2 ^ (cont * k) % 2 ^ bits)
/-- The pairs of group `j` of `g` elements of row `m` of A and row `n` of B whose units are unmarked in both (R141). -/
def pairsOf (t : Ty) (A B : MTile) (g m n j : Nat) : List Nat :=
  ((List.range g).map (g * j + ·)).filter fun k => unmarked t A m k && unmarked t B n k
/-- The exact sum of their products. -/
def sumOf (t : Ty) (bits cont : Nat) (A B : MTile) (g m n j : Nat) : Int :=
  ((pairsOf t A B g m n j).map fun k => codeAt bits cont A m k * codeAt bits cont B n k).sum
/-- The value of a group of an mx type: S × 2^(−2(w − 2)) × 2^(Ea − 127) × 2^(Eb − 127), a NaN where a scale is 0xFF (R88); of an i
type, S. -/
def groupNum (t : Ty) (bits cont : Nat) (A B : MTile) (g m n j : Nat) : Machine.Num :=
  let S := Machine.Num.ofInt (sumOf t bits cont A B g m n j)
  let ea := scaleAt A m j
  let eb := scaleAt B n j
  if t = .i4 ∨ t = .i8 then S
  else if ea = 0xFF ∨ eb = 0xFF then .nan false
  else Machine.Num.scale (((ea : Int) - 127) + ((eb : Int) - 127) - 2 * ((bits : Int) - 2)) S
/-- One group step of an f32 element, with the flags so far (R89). -/
def f32Step (t : Ty) (bits cont : Nat) (A B : MTile) (g m n : Nat) (c : Nat × Flags) (j : Nat) : Nat × Flags :=
  if pairsOf t A B g m n j = [] then c
  else
    let v := Machine.Num.add (floatOf .f32 c.1) (groupNum t bits cont A B g m n j)
    ((roundFloat .f32 v.1).1, c.2 ||| v.2 ||| (roundFloat .f32 v.1).2)
/-- Element `k` of a row of m64 codes likewise. -/
def m64At (m : MTile) (row k : Nat) : Int :=
  if unmarked .m64 m row k then (((m.rows.getD row 0) / 2 ^ (64 * k) % 2 ^ 64 : Nat) : Int) else 0
/-- The exact sum of products of m64 elements of row `m` of A and row `n` of B (R147). -/
def dot64 (A B : MTile) (klen m n : Nat) : Int := ((List.range klen).map fun k => m64At A m k * m64At B n k).sum

/-- Measured to the last cell: a tick later than a slice's last boundary (11 R227). -/
def sliceOver (s : State) (p len start : Nat) : Prop :=
  (s.part p).slice = some (len, start) ∧ s.boundary = true ∧ start + len ≤ s.tick ∧ liveAll s p = true ∧
    (s.part p).switching = none ∧ (s.part p).removal = none

/-- A message has gone out. -/
def sent (s : State) (m : OutMsg) : State := { s with out := s.out ++ [m] }

end Sys2Proof.Spec

open Sys2Proof Sys2Proof.Machine Sys2Proof.Safety Sys2Proof.Spec

/-- R155-R160, R168, R169, R192, R195, R199, R336, R340-R342: memory traffic. A die's oldest write is applied once its clock allows;
a plain write whose predecessors are visible may be exposed; an acknowledgement retires an applied write; a timeout retries and
after three tries loses the write, with a record in the log; a reply brings a queue load's data, and sound data makes its entry
ready; a cause takes its thread back to the load, once those before it have settled. The model's choices and readings in it:
notes/assumptions 13, 14, 16, 17, 18, 75, 95. -/
def Obligations.MemoryTraffic : Prop :=
  ∀ (s : State),
    (∀ src w rest, unapplied s src = w :: rest →
      let home := opHome s w.op
      let who : Who := { tag := w.tag, raw := w.raw, piece := w.piece, store := storeNo src w.seq w.piece, stale := w.stale, eng := w.eng }
      (clockMet s home src w.seq w.clock = true → To (.writeApplyAtHome src) s
        (mapWrite (applyAtHome s who src w.op) src w.seq fun x => { x with applied := true })) ∧
      (clockMet s home src w.seq w.clock = false → To (.writeApplyAtHome src) s s)) ∧
    (∀ die seq w, findWrite s die seq = some w →
      (w.mca = false → w.applied = false → w.lost = false → opHome s w.op ≠ die →
        (∀ x ∈ unapplied s die, x.seq < w.seq → x.exposed = true) →
        (∀ j, j < 4 → j ≠ die → tget w.clock j 0 ≤ tget (s.die die).known j 0) →
          To (.earlyExposure die seq) s (mapWrite s die seq fun x => { x with exposed := true })) ∧
      (w.mca = true → To (.earlyExposure die seq) s s) ∧
      (w.applied = true → To (.writeAck die seq) s { s with writes := s.writes.filter fun x => !(x.src == die && x.seq == seq) }) ∧
      (w.applied = false → To (.writeAck die seq) s s) ∧
      (s.tick < w.tick + 64 → To (.ackTimeout die seq) s s) ∧
      (w.tick + 64 ≤ s.tick → w.tries < 3 →
        To (.ackTimeout die seq) s (mapWrite s die seq fun x => { x with tries := x.tries + 1, tick := s.tick })) ∧
      (w.tick + 64 ≤ s.tick → 3 ≤ w.tries → w.applied = true →
        To (.ackTimeout die seq) s (loseWrite (dropWrite s die seq) w)) ∧
      (w.tick + 64 ≤ s.tick → 3 ≤ w.tries → w.applied = false → tget s.applied die 0 + 1 = seq →
        To (.ackTimeout die seq) s (loseWrite (dropWrite (noteApplied s die w.home) die seq) w))) ∧
    (TablesOk s → ∃ t, exec .clockChannelExchange s = .next t ∧ t.writes = s.writes ∧
      ∀ d j, d < 4 → j < 5 → tget (t.die d).known j 0 = max (tget (s.die d).known j 0) (tget s.applied j 0)) ∧
    -- an atomic of a tenancy that has ended arrives before one of the tenancy now there
    (∀ tid a l, takeFirst (fun (a : Nat × AmoReq) => a.1 == tid) s.lateAmos = some (a, l) →
      (amoReady s tid a.2 = true → To (.remoteAtomicAtHome tid) s (lateAmo { s with lateAmos := l } tid a.2)) ∧
      (amoReady s tid a.2 = false → To (.remoteAtomicAtHome tid) s s)) ∧
    (∀ tid r, (∀ a ∈ s.lateAmos, a.1 ≠ tid) → (s.thread tid).status = .waiting (.amo r) → amoReady s tid r = true →
      (∀ old fl s1, amoPerform s tid r = .ok (old, fl, s1) → To (.remoteAtomicAtHome tid) s
        (s1.setThread tid { s1.thread tid with status := .waiting (.amoDone old fl) })) ∧
      (∀ k, amoPerform s tid r = .error k → To (.remoteAtomicAtHome tid) s (takeCause s tid { r.trap with cause := k }))) ∧
    (∀ core q i e, entryAt s core q i = some e →
      (∀ ls vs k s1, e.status = .asked ls → e.filler = none → olderAsked s core e.issue ls = false →
        replyLanes (2 * core) { whoOf s (2 * core) with tag := e.tag } ls s = some (vs, k, s1) →
          To (.readReply core q i) s (putEntry (askPorts s1 (2 * core) { whoOf s (2 * core) with tag := e.tag }
            (ls.map fun l => (l.place, l.len))) core q i { e with status := .replied, data := fillLanes ls vs, poison := k })) ∧
      (e.status = .replied → e.fault = none ∧ e.poison = none ∨ tagCurrent s (.queue core) e.tag = false →
        To (.queueEntryReady core q i) s (putEntry s core q i { e with status := .ready, ckpt := none, readied := s.cycle + 1 })) ∧
      (∀ c t, e.status = .replied → tagCurrent s (.queue core) e.tag = true → e.ckpt = some t →
        e.fault = some c ∨ (e.fault = none ∧ ∃ k, e.poison = some k ∧ c = { e.trap with cause := poisonCause k }) →
        let s1 := discardFrom s core e.issue
        (settledBefore s core e.issue = true → To (.queueEntryReady core q i) s (s1.setThread (2 * core)
          (restoreThread (s1.thread (2 * core)) t c (goesOn s core)))) ∧
        (settledBefore s core e.issue = false → To (.queueEntryReady core q i) s s))) ∧
    (∀ die frame, die < 4 →
      let m := modeOf s die frame
      let k := die * 2 ^ 28 + frame
      let put := fun (s : State) (m' : PageMode) => { s with pageModes := tput {} s.pageModes k m' }
      (m.owner = none → 64 ≤ m.count → m.by_ ≠ die → m.since + 64 ≤ s.tick → ownedPages s m.by_ < 16 →
        To (.atomicPageMigrate die frame) s
          (passKnown (put (moveLines s die k false) { owner := some m.by_, by_ := m.by_, count := 0, since := s.tick }) die m.by_)) ∧
      (m.count < 64 → To (.atomicPageMigrate die frame) s s) ∧
      (∀ o b, m.owner = some o → b ≠ o → b < 4 → m.since + 64 ≤ s.tick → frameWanted s die frame b = true →
        To (.atomicPageReturn die frame b) s (moveLines (passKnown (put s { since := s.tick }) o die) die k true)) ∧
      (∀ b, frameWanted s die frame b = false ∨ (m.owner = none ∧ m.count = 0) → To (.atomicPageReturn die frame b) s s)) ∧
    (∀ die lane r l, takeFirst (fun (r : PortReq) => 64 * r.stack + r.lane == lane) (s.die die).ports = some (r, l) →
      To (.baseDieRequest die lane) s (countStack (s.setDie die { s.die die with ports := l }) die (r.stack * Config.stackBytes)
        fun c => if r.write then { c with wrreq := c.wrreq + 1, rmw := c.rmw + (if r.rmw then 1 else 0) }
          else { c with rdreq := c.rdreq + 1 }))

/-- R185, R202, R206-R208, R274: waits end. A thread whose condition holds runs its instruction again; a wait on a flag or an event
ends only as a cycle does, where its condition holds then; at a full barrier every member thread that waits in it returns, its count
at the level one higher and its core's descriptor cache fresh; `seal` and `unseal` complete. -/
def Sys2Proof.Spec.WaitsEnd : Prop :=
  ∀ (s : State),
    (∀ tid w, (s.thread tid).status = .waiting w →
      let core := coreOf tid
      let ends := fun (st : Status) => To (.waitConditionMet tid) s (s.setThread tid { s.thread tid with status := st })
      let stays := To (.waitConditionMet tid) s s
      let free := fun q => freeEntries (entriesOf s core q)
      let goesOn := mayRun s tid = true ∧ stopDue (s.thread tid) = false
      (∀ g i v o k, w = .flag g i v o k → stays ∧ ∀ f, flagRead s tid g i = .ok f →
        (goesOn → (f - v).toNat < 2 ^ 31 → cycleEnd s tid = asThread s tid fun s => waitEnd s o k (g / 16)) ∧
        (2 ^ 31 ≤ (f - v).toNat → cycleEnd s tid = s)) ∧
      (∀ i o k, w = .event i o k → stays ∧ ∀ b, eventRead s tid i = .ok b →
        (goesOn → b = true → cycleEnd s tid = asThread s tid fun s => waitEnd s o k 0) ∧
        (b = false → cycleEnd s tid = s)) ∧
      (stopDue (s.thread tid) = true → cycleEnd s tid = s) ∧
      (∀ q n, w = .qready q n → (n ≤ (free q).length → (∀ e ∈ (free q).take n, entryOut s core e = true) → ends .running) ∧
        ((free q).length < n → stays)) ∧
      (∀ q n, w = .qspace q n → ((entriesOf s core q).length + n ≤ 16 → ends .running) ∧
        (16 < (entriesOf s core q).length + n → stays)) ∧
      (∀ q n, w = .qheld q n → (n ≤ (free q).length → ends .running) ∧ ((free q).length < n → stays)) ∧
      (∀ m c l, w = .recSpace m c l → (hasRoom (s.core core) { m, c, l } = true → ends .running) ∧
        (hasRoom (s.core core) { m, c, l } = false → stays))) ∧
    (∀ part level key,
      let core := coreOf key
      let n := tget (s.thread key).syncs level 0 + 1
      let members := membersOf s core level
      partOf s core = part → waitsSync s level n key = true → barrierFull s core level n = true → members.Nodup → TablesOk s →
        ∃ t, exec (.syncBarrierRelease part level key) s = .next t ∧
          ∀ c ∈ members, (t.core c).view = some (viewNow s) ∧ (t.core c).unseen = [] ∧ ∀ th ∈ [2 * c, 2 * c + 1],
            (waitsSync s level n th = true → t.thread th =
              finishThread { s.thread th with syncs := tput 0 (s.thread th).syncs level n } [] 0) ∧
            (waitsSync s level n th = false → t.thread th = s.thread th)) ∧
    (∀ part level key, barrierFull s (coreOf key) level (tget (s.thread key).syncs level 0 + 1) = false →
      To (.syncBarrierRelease part level key) s s) ∧
    (∀ tid h l, (s.thread tid).status = .waiting (.seal h l) →
      (allApplied s l = true → To (.sealComplete tid) s (asThread s tid fun s => sealRelease s h)) ∧
      (allApplied s l = false → To (.sealComplete tid) s s)) ∧
    (∀ tid h k, (s.thread tid).status = .waiting (.sealRel h k) →
      (orderMet s (dieOf (coreOf tid)) 5 k = true →
        ((s.thread tid).lostWrites = [] → To (.sealComplete tid) s (asThread s tid fun s => finishIn (leaveSeal s h) [])) ∧
        ∀ c, (s.thread tid).lostWrites.head? = some c →
          To (.sealComplete tid) s (asThread s tid fun s => raiseLost s c)) ∧
      (orderMet s (dieOf (coreOf tid)) 5 k = false → To (.sealComplete tid) s s)) ∧
    (∀ tid h, (s.thread tid).status = .waiting (.unseal h) →
      let s1 := { s with cur := tid }
      (firstSeal s1 h = true → unsealReady s1 (partOf s (coreOf tid)) h = true →
        To (.unsealComplete tid) s (asThread s tid fun s => unsealDone s h)) ∧
      (firstSeal s1 h = false → To (.unsealComplete tid) s s))

/-- R72, R230, R239, R284, R286, R310: causes at a boundary in the order of R284, the single step, a word that is no instruction,
and registers written from outside a word. -/
def Sys2Proof.Spec.CausesTaken : Prop :=
  ∀ (s : State),
    (∀ tid, let t := s.thread tid
      (t.pend ≠ [] → t.stepMode ≠ .fired → mayTake s tid = true →
        ∃ c ∈ t.pend, (∀ u ∈ t.pend, pendBefore u c = false) ∧
          To (.pendingCauseTaken tid) s (takeCause (s.setThread tid { t with pend := t.pend.erase c }) tid c)) ∧
      (t.pend = [] ∨ mayTake s tid = false → To (.pendingCauseTaken tid) s s) ∧
      (t.stepMode = .fired → mayTake s tid = true → t.pend = [] → To (.singleStep tid) s
        (takeCause (s.setThread tid { t with stepMode := .none }) tid { cause := 0x32 })) ∧
      (t.stepMode ≠ .fired → To (.singleStep tid) s s)) ∧
    (∀ w, To (.nonInstructionWord w) s (raise s { cause := 0x01, kind := 1, info := s.th.pc.toNat })) ∧
    (∀ v, let p := partOf s (coreOf s.cur)
      let tp := targetPart (s.die (dieOf (coreOf s.cur))).target
      (p ≠ 0 →
        To (.registerWrite 0x25 v) s (s.setPart p { s.part p with slipCount := v.extractLsb' 0 16 }) ∧
        To (.registerWrite 0x24 v) s s ∧ To (.registerWrite 0x40 v) s s ∧
        To (.registerWrite 0x01 v) s (s.setTh { s.th with fpstat := s.th.fpstat &&& ~~~(v.extractLsb' 0 6) })) ∧
      (p = 0 →
        To (.registerWrite 0x24 v) s (s.setPart tp { s.part tp with sliceLen := v.extractLsb' 0 24 }) ∧
        To (.registerWrite 0x25 v) s (s.setPart tp { s.part tp with slipCount := v.extractLsb' 0 16, slipLimit := v.extractLsb' 16 16 }) ∧
        To (.registerWrite 0x26 v) s (s.setPart tp { s.part tp with latew := v.extractLsb' 0 32 }) ∧
        To (.registerWrite 0x27 v) s (s.setPart tp { s.part tp with migsrc := v.extractLsb' 0 16 }))) ∧
    (∀ core l, launchOf s core = some l →
      ((s.core core).wdog.fired = true → To (.wdogFiredAnswer core) s
        (s.setCore core { s.core core with wdog := { (s.core core).wdog with fired := false, left := l.timeout } })) ∧
      ((s.core core).wdog.fired = false → To (.wdogFiredAnswer core) s s))

/-- The ends of waits and the causes of a boundary (R185, R202, R208; R72, R230, R239, R284, R286, R310). The model's choices and
readings in it: notes/assumptions 12, 100. -/
def Obligations.WaitsAndCauses : Prop := WaitsEnd ∧ CausesTaken

/-- R221, R222, R243-R247, R255-R257, R259: a record that may start and has a context runs, or is held with its cause pending; each
element operation is done or faults; a record that is done and released leaves its queue. -/
def Sys2Proof.Spec.RecordsGoOn : Prop :=
  ∀ (s : State) (core rid : Nat) (x : Rec), findRec s core rid = some x →
    (mayStart s core x = false → To (.recordStart core rid) s s) ∧
    (∀ e, mayStart s core x = true → contextFor s core x = some e →
      (startCheck s core x = none → x.op ≠ .mmulc → ∃ t, exec (.recordStart core rid) s = .next t ∧
        ∃ y, findRec t core rid = some y ∧ y.status = .running ∧ y.started = true ∧ y.engine = e ∧ y.upc = x.upc) ∧
      (startCheck s core x = none → x.op = .mmulc → (wantedTiles core x).any (wantBlocked s core x) = false →
        To (.recordStart core rid) s (startRec s core x e)) ∧
      (x.op = .mmulc → startCheck s core x = none → (wantedTiles core x).any (wantBlocked s core x) = true →
        To (.recordStart core rid) s s) ∧
      (startCheck s core x = some .wait → To (.recordStart core rid) s s) ∧
      (∀ c, startCheck s core x = some (.cause c) → To (.recordStart core rid) s (recFault s core x c))) ∧
    (contextFor s core x = none → To (.recordStart core rid) s s) ∧
    (x.status ≠ .running → To (.recordElement core rid) s s) ∧
    (recGoes s core x = false → To (.recordElement core rid) s s) ∧
    -- one back from a shadow bank waits for a context of its engine
    (x.status = .running → recGoes s core x = true → x.parked = true → recDone s core x = false →
      To (.recordElement core rid) s
        (if contextBack s core x = true then mapRec s core x.id fun r => { r with parked := false } else s)) ∧
    (x.status = .running → recGoes s core x = true → x.parked = false → recDone s core x = false →
      (x.op ∈ [RecOp.cp, .cpcv, .cpbk, .mig] → served s core x = true →
        (reserveAgain s core x = none → To (.recordElement core rid) s s) ∧
        ∀ s0, reserveAgain s core x = some s0 →
          let e := x.sizes s0 core
          let src := recPlace s0 core x x.d1 x.upc e.2 .load
          let dst := recPlace s0 core x x.d0 x.upc e.1 .store
          let fault := fun (a : Trap) => To (.recordElement core rid) s (resetAge (recFault s0 core x a) core x)
          let from_ := fun pl => asksPort (elemRun s0 core x x.d1 x.upc e.2 .load pl)
          let to_ := fun pd => elemRun s0 core x x.d0 x.upc e.1 .store pd
          let read := fun pl pd => readRec
            (recAsk (recAsk s0 core x x.d1 x.upc e.2 (from_ pl)) core x x.d0 x.upc e.1 (asksPort (to_ pd))) core x pl e.2 (from_ pl)
          (∀ pl ts pd td v s1, src = .ok (pl, ts) → dst = .ok (pd, td) → sourceGone s0 x pl = false → read pl pd = .ok (v, s1) →
              let kd := pieceOf (to_ pd)
              (x.op = .cp ∨ x.op = .mig → To (.recordElement core rid) s
                (resetAge (stepRec (writeRec s1 core x pd e.1 v td kd) core x 0) core x)) ∧
              (x.op = .cpcv → To (.recordElement core rid) s
                (resetAge (stepRec (writeRec s1 core x pd e.1 (cvElem s0 core x v).1 td kd) core x (cvElem s0 core x v).2) core x)) ∧
              (∀ p, x.op = .cpbk → pd = .loc p →
                (∀ t, bkStep s1 core x p e.1 v td = some t → To (.recordElement core rid) s (resetAge t core x)) ∧
                (bkStep s1 core x p e.1 v td = none → To (.recordElement core rid) s s))) ∧
          (∀ pl ts b, src = .ok (pl, ts) → dst = .ok b → sourceGone s0 x pl = false →
            (∀ c, read pl b.1 = .error (.cause c) → fault { ts with cause := c }) ∧
            (∀ w, read pl b.1 = .error (.wait w) → To (.recordElement core rid) s s)) ∧
          (∀ pl ts b, src = .ok (pl, ts) → dst = .ok b → sourceGone s0 x pl = true →
            To (.recordElement core rid) s
              (resetAge (recFault (loseRest s0 core x) core x { ts with cause := 0x18 }) core x)) ∧
          (∀ a b, src = .error a → dst = .ok b → fault a) ∧ (∀ a b, src = .ok b → dst = .error a → fault a) ∧
          (∀ a b, src = .error a → dst = .error b → fault (if causeRank a.cause ≤ causeRank b.cause then a else b))) ∧
      (x.op.isPlain = true → arrayServes s core = false → To (.recordElement core rid) s s) ∧
      (∀ t c0, x.op = .mmul ∨ x.op = .mmod → mulTy x = some t → arrayServes s core = true →
        readAcc s x core core x.d0.tile (x.d0.off / 0x4000) = .ok c0 →
        (∀ c fl s1, runSteps s core x t 0 0 1 x.upc (c0, 0) = .ok (c, fl, s1) →
          let next := fun s => mapRec s core x.id fun r => { r with upc := r.upc + 1, flags := r.flags ||| fl }
          (lateBlock s1 x core = false → To (.recordElement core rid) s
            (next (writeAcc s1 x core core x.d0.tile (x.d0.off / 0x4000) c))) ∧
          (lateBlock s1 x core = true → x.upc + 1 ≠ trip x.r 0 → To (.recordElement core rid) s (next s1))) ∧
        (∀ c, runSteps s core x t 0 0 1 x.upc (c0, 0) = .error (some c) → To (.recordElement core rid) s (recFault s core x c)) ∧
        (runSteps s core x t 0 0 1 x.upc (c0, 0) = .error none → To (.recordElement core rid) s s)) ∧
      (served s core x = false → x.op ∈ [RecOp.cp, .cpcv, .cpdz, .cpbk, .mig, .migrep, .coll] → To (.recordElement core rid) s s) ∧
      (served s core x = true →
        (x.op = .cpdz → (∀ s1, zStep s core x = some s1 → To (.recordElement core rid) s (resetAge s1 core x)) ∧
          (zStep s core x = none → To (.recordElement core rid) s s)) ∧
        (x.op = .coll → (∀ s1, collStep s core x = some s1 → To (.recordElement core rid) s (resetAge s1 core x)) ∧
          (collStep s core x = none → To (.recordElement core rid) s s)) ∧
        (x.op = .migrep → To (.recordElement core rid) s (resetAge (migrepStep s core x) core x))) ∧
      (x.op = .mtr → arrayServes s core = true → To (.recordElement core rid) s (mtrStep s core x))) ∧
    (x.status = .running → recMay s core = true → recDone s core x = true →
      (landed s core x = false → To (.recordComplete core rid) s s) ∧
      (landed s core x = true → x.r.rel = 0 ∨ orderMet s (dieOf core) x.r.scp.toNat (relClockOf s core x) = true →
        To (.recordComplete core rid) s (endRec s core x) ∧
        (x.op ∈ [RecOp.cp, .cpcv, .cpdz, .cpbk, .migrep] → x.deadline = none → TablesOk s →
          ∃ t, exec (.recordComplete core rid) s = .next t ∧ findRec t core x.id = none ∧
            (t.thread (recTid core x)).fpstat = (s.thread (recTid core x)).fpstat ||| x.flags)) ∧
      (landed s core x = true → x.r.rel = 1 → orderMet s (dieOf core) x.r.scp.toNat (relClockOf s core x) = false →
        To (.recordComplete core rid) s (relWait s core x))) ∧
    (x.op = .note → recMay s core = true → (∀ r ∈ x.ahead, findRec s core r = none) →
      (x.r.rel = 0 ∨ orderMet s (dieOf core) x.r.scp.toNat (relClockOf s core x) = true →
        To (.noteComplete core rid) s (noteEvent (dropRec s core x.id) (recTid core x) x.tag x.r)) ∧
      (x.r.rel = 1 → orderMet s (dieOf core) x.r.scp.toNat (relClockOf s core x) = false →
        To (.noteComplete core rid) s (relWait s core x))) ∧
    (∀ r ∈ x.ahead, (findRec s core r).isSome = true → To (.noteComplete core rid) s s) ∧
    (x.missed = true → x.deadline ≠ none → To (.migDeadlineMiss core rid) s (missDeadline s core x)) ∧
    (x.missed = false → To (.migDeadlineMiss core rid) s s) ∧
    (∀ k, nextArray x = some k →
      let c := participant core x k
      let g := groupOf c
      settleTenure s g = s → arrayFree s g = true → oldest (waiters s g) = some { since := x.waitFrom, core := c, coop := some (core, rid) } →
      x.arrays.length + 1 ≠ (coresOf x.r).length →
        To (.mmulcArrayGrant core rid) s
          (let s1 := s.setGroup g { s.group g with lent := some (core, rid) }
           waitNext (mapRec (setLease s1 c { (s1.core c).lease with lender := some (core % 64) }) core rid
             fun r => { r with arrays := r.arrays ++ [k], waitFrom := s.cycle }) core rid)) ∧
    (∀ array w t c0 c fl s1, x.work.find? (fun w => w.array == array) = some w → mulTy x = some t → x.status = .running →
      let b := blockAt x.r x.ov w.block
      let o := participant core x b.owner
      readAcc s x core o b.tile b.half = .ok c0 → runSteps s core x t b.i b.j (trip x.r 0) 0 (c0, 0) = .ok (c, fl, s1) →
        To (.matrixBlockComplete core rid array) s (faultEnd (takeBlock (mapRec (writeAcc s1 x core o b.tile b.half c) core rid fun r =>
          { r with doneBlocks := x.doneBlocks ++ [w.block], work := r.work.filter (· != w), flags := r.flags ||| fl,
                   upc := blockMask (x.doneBlocks ++ [w.block]) }) core rid array) core rid))

/-- R136: an array goes to the waiter that has waited longest; a tenure without a running record ends after 4,096 cycles. No record
need stand anywhere. -/
def Sys2Proof.Spec.ArrayTenures : Prop :=
  ∀ (s : State) (g : Nat),
    let s0 := settleTenure s g
    (oldest (waiters s0 g) = none → To (.leaseGrant g) s s0) ∧
    (∀ w, TablesOk s → oldest (waiters s0 g) = some w →
      (w.coop ≠ none ∨ arrayFree s0 g = false → To (.leaseGrant g) s s0) ∧
      (w.coop = none → arrayFree s0 g = true →
        ∃ t, exec (.leaseGrant g) s = .next t ∧ (t.core w.core).lease.tenure = true ∧ (t.core w.core).lease.since = s.cycle ∧
          (t.core w.core).lease.recs = 0 ∧ (t.core w.core).near = (s.core w.core).near ∧ t.threads = s.threads ∧
          ∀ c ∈ groupCores g, c ≠ w.core → (t.core c).lease.tenure = false)) ∧
    (TablesOk s → ∃ t, exec (.tenureTimeout g) s = .next t ∧ t.threads = s.threads ∧ ∀ c ∈ groupCores g,
      (t.core c).lease.tenure = ((s.core c).lease.tenure && !(decide (4096 ≤ s.cycle - (s.core c).lease.since) && !matrixRunning (s.core c))))

/-- Engine records and the arrays they run on (R136, R144-R146, R221, R222, R243-R247, R255-R257, R259). The model's choices and
readings in it: notes/assumptions 31, 32, 33, 34, 35, 75, 76, 88, 89. -/
def Obligations.RecordProgress : Prop := RecordsGoOn ∧ ArrayTenures

/-- R88-R91, R140, R141, R147, R148: the values of matrix records. Over one K-step an i32 element takes the exact sums of products
of unmarked codes, in steps of 32 elements, each wrapped or saturated; an f32 element takes the groups in order, each rounded once,
groups with no unmarked pair skipped, with the flags of all; an m64 element is the canonical residue; `mtr` transposes. -/
def Obligations.RecordArithmetic : Prop :=
  (∀ (A B : MTile) (C : List Nat), C.length = 4096 → (∀ c ∈ C, c < 2 ^ 32) → ∀ t bits cont, (t, bits, cont) ∈ codeTypes →
    let klen := klenOf t A.desc
    let at_ := fun m n => C.getD (64 * m + n) 0
    (t = .i4 ∨ t = .i8 → klen % 32 = 0 → ∀ m n, m < 64 → n < 64 →
      let step := fun (c : Int) j => c + sumOf t bits cont A B 32 m n j
      let sat := fun (c : Int) j => max (-2 ^ 31) (min (2 ^ 31 - 1) (step c j))
      (blockStep (.i32 false) t A B C).1.getD (64 * m + n) 0 =
        (((List.range (klen / 32)).foldl step (at_ m n : Int)) % 2 ^ 32).toNat ∧
      (blockStep (.i32 true) t A B C).1.getD (64 * m + n) 0 =
        (((List.range (klen / 32)).foldl sat (signedOf 32 (at_ m n))) % 2 ^ 32).toNat) ∧
    (let g := if t ≠ .i4 ∧ t ≠ .i8 ∧ A.desc.gsz = 1 then 16 else 32
     klen % g = 0 →
      let elem := fun m n => (List.range (klen / g)).foldl (f32Step t bits cont A B g m n) (at_ m n, 0)
      (∀ m n, m < 64 → n < 64 → (blockStep .f32 t A B C).1.getD (64 * m + n) 0 = (elem m n).1) ∧
      ∀ i, (blockStep .f32 t A B C).2.getLsbD i = true ↔ ∃ m n, m < 64 ∧ n < 64 ∧ (elem m n).2.getLsbD i = true)) ∧
  (∀ (k : Int) (y : Machine.Num) (r : ℚ), ratOf y = some r → ratOf (Machine.Num.scale k y) = some (r * 2 ^ k)) ∧
  (∀ (A B : MTile) (C : List Nat) (q : Nat), C.length = 4096 →
    let klen := klenOf .m64 A.desc
    (q % 2 = 1 → 3 ≤ q → q < 2 ^ 62 → 0 < klen → ∀ m n, m < 64 → n < 64 →
      (blockMod q A B C).1.getD (64 * m + n) 0 = (((C.getD (64 * m + n) 0 : Int) + dot64 A B klen m n) % (q : Int)).toNat) ∧
    (q % 2 = 0 ∨ q < 3 ∨ 2 ^ 62 ≤ q → blockMod q A B C = (List.replicate 4096 0, fMOD))) ∧
  ∀ (e : Nat) (rows : List Nat), rows.length = 64 → ∀ r j, r < 64 → j < 64 →
    (transposed e rows).getD r 0 / 2 ^ (e * j) % 2 ^ e = rows.getD j 0 / 2 ^ (e * r) % 2 ^ e

/-- R83, R254, R255: what an update of `cpbk` and an element of `coll` are. Integer operations act on the type's range, `add`
wrapping or saturating; floating ones round once, a sum of many members exactly; the kinds of `coll` say which member writes which
element. -/
def Sys2Proof.Spec.CombinedValues : Prop :=
  (∀ (old b : Nat) (ty : Ty), old < 2 ^ ty.width → b < 2 ^ ty.width →
    (ty ∈ [Ty.i32, .n32, .i64, .n64] →
      let v := fun n => if ty = .i32 ∨ ty = .i64 then signedOf ty.width n else ((n : Nat) : Int)
      let w := fun (i : Int) => ((i % (2 ^ ty.width : Nat)).toNat, (0 : Flags))
      bkNew 0 ty false old b = w (v old + v b) ∧
      bkNew 0 ty true old b = w (max (tyLo ty) (min (tyHi ty) (v old + v b))) ∧
      bkNew 1 ty false old b = w (min (v old) (v b)) ∧ bkNew 2 ty false old b = w (max (v old) (v b)) ∧
      bkNew 3 ty false old b = (old &&& b, 0) ∧ bkNew 4 ty false old b = (old ||| b, 0) ∧ bkNew 5 ty false old b = (old ^^^ b, 0) ∧
      ∀ l : List Nat, (∀ v ∈ l, v < 2 ^ ty.width) →
        (collCombine 0 ty (old :: l)).1 = (old + l.sum) % 2 ^ ty.width ∧
        collCombine 1 ty (old :: l) = w (l.foldl (fun i n => min i (v n)) (v old)) ∧
        collCombine 2 ty (old :: l) = w (l.foldl (fun i n => max i (v n)) (v old)) ∧
        collCombine 3 ty (old :: l) = (l.foldl (· &&& ·) old, 0) ∧ collCombine 4 ty (old :: l) = (l.foldl (· ||| ·) old, 0) ∧
        collCombine 5 ty (old :: l) = (l.foldl (· ^^^ ·) old, 0)) ∧
    (isF ty →
      let once := fun (r : Machine.Num × Flags) => ((roundFloat ty r.1).1, r.2 ||| (roundFloat ty r.1).2)
      let o := floatOf ty old
      let y := floatOf ty b
      bkNew 6 ty false old b = once (Machine.Num.add o y) ∧ bkNew 1 ty false old b = once (Machine.Num.min o y) ∧
      bkNew 2 ty false old b = once (Machine.Num.max o y) ∧
      ∀ l : List Nat, collCombine 6 ty l = once (Machine.Num.sum (l.map (floatOf ty))))) ∧
  ∀ (s : State) (ms : List (Nat × Rec)) (x : Rec) (ty : Ty),
    let p := ms.length
    let per := nestSize x.r / p
    let whole := fun (vs : List Nat) (s1 : State) (v : Nat × Flags) => membersRead ms x.upc s = .ok (vs, s1) →
      ∃ l, collWrites s ms x ty = .ok (l, s1) ∧ ∀ w, w ∈ l ↔ ∃ m, m < p ∧ w = (m, x.upc, v.1, v.2)
    (collKind x = 0 → ∀ vs s1, whole vs s1 (collCombine (collOp x) ty vs)) ∧
    (collKind x = 1 → ∀ (vs : Nat → List Nat) (st : Nat → State), st 0 = s →
      (∀ m, m < p → membersRead ms (m * per + x.upc) (st m) = .ok (vs m, st (m + 1))) →
        ∃ l, collWrites s ms x ty = .ok (l, st p) ∧ ∀ w, w ∈ l ↔ ∃ m, m < p ∧
          w = (m, x.upc, (collCombine (collOp x) ty (vs m)).1, (collCombine (collOp x) ty (vs m)).2)) ∧
    (collKind x = 2 → ∀ vs s1, membersRead ms x.upc s = .ok (vs, s1) → vs.length = p ∧
      ∃ l, collWrites s ms x ty = .ok (l, s1) ∧ ∀ w, w ∈ l ↔ ∃ r m, r < p ∧ m < p ∧ w = (m, r * per + x.upc, vs.getD r 0, 0)) ∧
    (collKind x = 3 → ∀ v s1, membersRead (ms.take 1) x.upc s = .ok ([v], s1) →
      ∃ l, collWrites s ms x ty = .ok (l, s1) ∧ ∀ w, w ∈ l ↔ ∃ m, m < p ∧ w = (m, x.upc, v, 0))

/-- R34, R79, R81, R82, R252, R253: what `cpcv` and `cpdz` write. A conversion scales, rounds once and clamps, and never wraps to an
integer; a frame begins with its magic number and a block with its header; raw and run-length blocks stand for their bytes; a match
repeats the output; the end of a frame is checked. -/
def Sys2Proof.Spec.ExpandedValues : Prop :=
  (∀ (s : State) (core : Nat) (x : Rec) (v : Nat) (into from_ : Ty), descTy s core x.d0 = some into → descTy s core x.d1 = some from_ →
    let clp := x.r.aux.toNat % 4
    let y := Machine.Num.scale (x.r.aux.extractLsb' 2 4).toInt (numOf from_ v)
    let res := cvElem s core x v
    (isF into → res = (clampFloat into clp (roundFloat into y).1, (roundFloat into y).2 ||| flagIf y.isSig fINV)) ∧
    (into ∈ [Ty.i8, .n8, .i16, .n16, .i32, .n32, .i64, .n64] →
      let lo := if clp < 2 then tyLo into else 0
      let bits := fun (i : Int) => ((max lo i) % (2 ^ into.width : Nat)).toNat
      (∀ sg, y = .nan sg → res = (0, fINV)) ∧
      (∀ neg, y = .inf neg → res = (bits (if neg then tyLo into else tyHi into), fINV)) ∧
      (∀ neg n d, y = .fin neg n d → 0 < d →
        let i : Int := if neg then -(n : Int) else n
        (i < tyLo into * d → res = (bits (tyLo into), fINV)) ∧ (tyHi into * d < i → res = (bits (tyHi into), fINV)) ∧
        (tyLo into * d ≤ i → i ≤ tyHi into * d → res = (bits (rneInt neg n d).1, flagIf (n % d != 0) fNX))))) ∧
  (∀ l n, (zHeader l n).isSome = true → l.take 4 = [0x28, 0xB5, 0x2F, 0xFD]) ∧
  (∀ (z : ZState) (n : Nat) (l : List Byte), zBlockOf z 0 n l = some { lits := l, seqs := [], z } ∧
    zBlockOf z 1 n l = some { lits := List.replicate n (l.headD 0), seqs := [], z } ∧ zBlockOf z 3 n l = none) ∧
  (∀ (core : Nat) (x : Rec) (z : ZState) (lits : List Byte) (s : State) (out : Array Byte),
    zRun core x z [] lits (s, out) = .ok (s, out ++ lits.toArray) ∧
    ∀ off n, 0 < off → off ≤ out.size → ∃ o2, zCopy core x z off n (s, out) = .ok (s, o2) ∧ o2.size = out.size + n ∧
      (∀ i, i < out.size → o2.getD i 0 = out.getD i 0) ∧ ∀ i, i < n → o2.getD (out.size + i) 0 = o2.getD (out.size + i - off) 0) ∧
  (∀ (a b c ov ll : Nat), 3 < ov → zOffset [a, b, c] ov ll = some (ov - 3, [ov - 3, a, b])) ∧
  (∀ (a b c ll : Nat), 0 < a → 0 < b → 0 < c → 0 < ll → zOffset [a, b, c] 1 ll = some (a, [a, b, c]) ∧
    zOffset [a, b, c] 2 ll = some (b, [b, a, c]) ∧ zOffset [a, b, c] 3 ll = some (c, [c, a, b]) ∧
    zOffset [a, b, c] 1 0 = some (b, [b, a, c]) ∧ zOffset [a, b, c] 2 0 = some (c, [c, a, b]) ∧
    (1 < a → zOffset [a, b, c] 3 0 = some (a - 1, [a - 1, a, b])) ∧ zOffset [1, b, c] 3 0 = none) ∧
  ∀ (s : State) (core : Nat) (x : Rec) (z : ZState),
    let bad := fun reason => zEnd s core x z = some (recFault s core x (reasonTrap x reason))
    let n := z.inPos + (if z.checksum then 4 else 0)
    (zStored x ≠ n → bad 0x10) ∧ (zStored x = n → z.outPos ≠ z.size → bad 0x12) ∧
    (zStored x = n → z.outPos = z.size → z.checksum = false → zEnd s core x z = zSet s core x { z with ended := true }) ∧
    (zStored x = n → z.outPos = z.size → z.checksum = true → z.got.length = 4 + z.outPos →
      let sum := leNat (z.got.take 4)
      (sum ≠ (xxh64 (z.got.drop 4)).toNat % 2 ^ 32 → bad 0x13) ∧
      (sum = (xxh64 (z.got.drop 4)).toNat % 2 ^ 32 → zEnd s core x z = zSet s core x { z with ended := true })) ∧
    xxh64 [] = 0xEF46DB3751D8E999 ∧ xxh64 [0x61, 0x62, 0x63] = 0x44BC2CF5AD770999

/-- The values that copies, updates, collectives and expanded frames write (R34, R79, R81-R83, R252-R255). The model's choices and
readings in it: notes/assumptions 33, 77. -/
def Obligations.CopyArithmetic : Prop := CombinedValues ∧ ExpandedValues

/-- R54, R211-R217: launches. A record taken from the table enters the partition's list or is counted as refused; at a tick boundary
launches whose WAIT bits are 1 and whose cores are free and live are chosen; a chosen launch starts its cores at their entries; a
launch with nothing left writes its SET bits and leaves its cores. The model's choices and readings in it: notes/assumptions 37, 65.
-/
def Obligations.Launching : Prop :=
  ∀ (s : State) (p : Nat),
    let q := s.part p
    (∀ flag used l old, p ≠ 0 → q.isOpen = true → flatNat s p (q.lbase + 0x2000) 4 = some flag →
      flatNat s p (q.lbase + 0x2008) 4 = some used → flatRead s p (q.lbase + 128 * (used % 64)) 128 = some l →
      flatNat s p (q.lbase + 0x2010) 8 = some old →
      let s1 := flatWrite (tableAsks s p q.lbase (used % 64)) (tagOf s p) (q.lbase + 0x2008) (leBytes 4 (used + 1))
      (flag = used → To (.launchConsume p) s s) ∧
      (flag ≠ used → (q.launches.filter fun l => l.status != .running).length < 64 →
        (refuseReason s p l = none → To (.launchConsume p) s (s1.setPart p { s1.part p with
          launches := (s1.part p).launches ++ [launchOfRecord (s1.part p).nextLaunch l], nextLaunch := (s1.part p).nextLaunch + 1 })) ∧
        (∀ r, refuseReason s p l = some r → To (.launchConsume p) s (flatWrite s1 (tagOf s p) (q.lbase + 0x2010)
          (leBytes 8 ((old / 2 ^ 32 + 1) % 2 ^ 32 * 2 ^ 32 + r * 2 ^ 8 + used % 64)))))) ∧
    (s.boundary = false ∨ q.dispatched = some s.tick → To (.dispatch p) s s) ∧
    (p ≠ 0 → s.boundary = true → q.isOpen = true → liveAll s p = true → q.switching = none → q.resume = false →
      q.dispatched ≠ some s.tick → (q.launches.map (·.id)).Nodup → ∃ t, exec (.dispatch p) s = .next t ∧
        (t.part p).dispatched = some s.tick ∧
        let met := fun (l : Launch) => l.wait &&& q.bitsHeld = l.wait
        let free := fun (l : Launch) => ∀ c ∈ l.cores, coreFree s p c = true ∧ q.busyHeld.getLsbD c = false
        ∀ l ∈ q.launches, ∃ l' ∈ (t.part p).launches, l' = { l with status := l'.status } ∧
          (l.pendingAt s.tick = false → l'.status = l.status) ∧
          (l.pendingAt s.tick = true → l'.status = .pending ∨ (l'.status = .chosen s.tick ∧ met l ∧ free l)) ∧
          (l.pendingAt s.tick = true → met l → free l → (l.cores.all fun c => (s.group (groupOf c)).live == some p) = true →
            (∀ m ∈ q.launches, m.pendingAt s.tick = true → m.id ≠ l.id → met m → ∀ c ∈ m.cores, c ∉ l.cores) →
              l'.status = .chosen s.tick)) ∧
    (∀ l t0, (q.launches.find? fun x => x.id == l.id) = some l → l.status = .chosen t0 →
      (s.tick ≠ t0 + 1 ∨ s.boundary = false ∨ q.isOpen = false ∨ liveAll s p = false ∨ q.switching ≠ none ∨ q.removal ≠ none ∨ q.saved = true ∨
        q.resume = true → To (.launchStart p l.id) s s) ∧
      (s.tick = t0 + 1 → s.boundary = true → q.isOpen = true → liveAll s p = true → q.switching = none → q.removal = none → q.saved = false →
        q.resume = false → l.cores.Nodup → TablesOk s → ∃ t, exec (.launchStart p l.id) s = .next t ∧ ∀ c ∈ l.cores,
        let window := [Val.s (BitVec.ofNat 64 (l.cores.idxOf c)), .s (BitVec.ofNat 64 l.cores.length), .s l.arg]
        let tag := tagOf s (partOf s c)
        t.thread (2 * c + 1) = { status := .running, pc := l.eentry, atEntry := true, entered := true, window, tag } ∧
        (l.aentry ≠ 0 → t.thread (2 * c) = { status := .running, pc := l.aentry, atEntry := true, entered := true, window, tag }) ∧
        (l.aentry = 0 → t.thread (2 * c) = { status := .done, tag }) ∧
        (t.core c).launch = some l.id ∧ (t.core c).wdog.left = l.timeout ∧ (t.core c).wdog.grace = (s.core c).wdog.grace ∧
        (t.core c).near = (s.core c).near ∧ (t.core c).tiles = (s.core c).tiles ∧ (t.core c).patterns = (s.core c).patterns ∧
        (t.core c).queues = [] ∧ (t.core c).owed = [] ∧ (t.core c).unseen = [] ∧ (t.core c).records = [])) ∧
    (∀ l, (q.launches.find? fun x => x.id == l.id) = some l →
      (launchDone s l = false → To (.launchComplete p l.id) s s) ∧
      (l.status = .running → liveAll s p = true → launchDone s l = true → launchReleased s l = true → l.cores.Nodup → TablesOk s →
        tagCurrent s .events (tagOf s p) = true → p < 16 →
        ∃ t, exec (.launchComplete p l.id) s = .next t ∧ (∀ x ∈ (t.part p).launches, x.id ≠ l.id) ∧
          (∀ i, i < 256 → eventBit t p i = (eventBit s p i || l.set.getLsbD i)) ∧
          ∀ c ∈ l.cores, (t.core c).launch = none ∧ (t.core c).queues = [] ∧ (t.thread (2 * c)).status = .off ∧
            (t.thread (2 * c + 1)).status = .off ∧ (t.core c).near = (s.core c).near))

/-- R224-R230, R288: slices, gang switches, watchdogs and removal. At its end a slice begins anew or its threads are asked to stop;
what has not stopped after the grace is stopped hard; a settled partition's groups change places with their shadow contexts; LEFT
counts down, fires once, and at its second end the partition is removed after 4,096 cycles of empty fetch. The model's choices and
readings in it: notes/assumptions 41, 45, 90. -/
def Obligations.SlicesAndWatchdogs : Prop :=
  ∀ (s : State) (p : Nat),
    let q := s.part p
    (∀ len start, sliceOver s p len start →
      (mayExchange s p = true → duskWaits s p = false → To (.sliceEnd p) s
        (stopPart (s.setPart p { q with switching := some { slot := s.slot }, slice := none }) p false)) ∧
      (mayExchange s p = false ∨ duskWaits s p = true → To (.sliceEnd p) s
        (s.setPart p { q with slice := if q.sliceLen = 0 then none else some (q.sliceLen.toNat, s.tick) }))) ∧
    (s.boundary = false → To (.sliceEnd p) s s ∧ To (.partitionResume p) s s ∧ To (.zeroSliceExchange p) s s) ∧
    (∀ w, q.switching = some w →
      (w.slot + 40000 ≤ s.slot → To (.softStopGraceExpiry p) s (stopPart s p true)) ∧
      (s.slot < w.slot + 40000 → To (.softStopGraceExpiry p) s s) ∧
      (settled s p = false → To (.gangSwitch p) s s) ∧
      (w.save = false → settled s p = true → TablesOk s →
        ∃ t, exec (.gangSwitch p) s = .next t ∧ (t.part p).switching = none ∧ ∀ g ∈ ownedGroups s p, ∀ x, (s.group g).shadow = some x →
          (t.group g).live = some x.part ∧ (t.group g).flags = x.flags ∧
          ∃ y, (t.group g).shadow = some y ∧ y.part = p ∧ y.flags = (s.group g).flags ∧
            ∀ c ∈ groupCores g,
              (∀ th ∈ [2 * c, 2 * c + 1], tget y.threads th {} = s.thread th ∧ t.thread th = tget x.threads th {}) ∧
              let old := tget y.cores c {}
              let new := tget x.cores c {}
              old.near = (s.core c).near ∧ old.tiles = (s.core c).tiles ∧ old.patterns = (s.core c).patterns ∧
              -- no pending entry is saved: a record that could not fill its own reserves them again on its return
              old.queues = (((s.core c).queues.map fun e => (e.1, e.2.filter fun n => n.status == .ready || n.filler.isNone)).filter
                fun e => !e.2.isEmpty) ∧ old.owed = (s.core c).owed ∧ old.unseen = (s.core c).unseen ∧
              old.view = (s.core c).view ∧ old.domain = (s.core c).domain ∧ old.launch = (s.core c).launch ∧
              old.wdog = (s.core c).wdog ∧ old.tlb = [] ∧
              (t.core c).near = new.near ∧ (t.core c).tiles = new.tiles ∧ (t.core c).patterns = new.patterns ∧
              ((∀ r ∈ new.copyQ, r.status = .queued → r.gone = []) → (t.core c).queues = new.queues) ∧ (t.core c).owed = new.owed ∧ (t.core c).unseen = new.unseen ∧
              (t.core c).view = new.view ∧ (t.core c).domain = new.domain ∧ (t.core c).launch = new.launch ∧
              (t.core c).wdog = { new.wdog with grace := (s.core c).wdog.grace })) ∧
    (s.slot < q.resumeFrom → To (.partitionResume p) s s) ∧
    (s.boundary = true → q.resumeFrom ≤ s.slot → liveAll s p = true → q.switching = none → q.removal = none →
      let starts := fun (s : State) => s.setPart p { s.part p with slice := if q.sliceLen = 0 then none else some (q.sliceLen.toNat, s.tick) }
      (q.resume = true → q.isOpen = true →
        To (.partitionResume p) s (starts (resumePart (s.setPart p { q with resume := false, saved := false }) p)) ∧
        (TablesOk s → (∀ c ∈ liveCores s p, (s.thread (2 * c)).pend = [] ∧ (s.thread (2 * c + 1)).pend = []) →
          ∃ t, exec (.partitionResume p) s = .next t ∧ (t.part p).resume = false ∧ (t.part p).saved = false ∧
            ∀ c ∈ liveCores s p, ∀ th ∈ [2 * c, 2 * c + 1], t.thread th =
              if (s.thread th).status = .stopped then { s.thread th with status := .running } else s.thread th)) ∧
      (q.isOpen = false ∨ q.resume = false → q.slice = none → To (.partitionResume p) s (starts s))) ∧
    (∀ th, (s.thread th).status = .stopped → (s.thread th).pend ≠ [] →
      resumeAt s th = takePend (s.setThread th { s.thread th with status := .running }) th) ∧
    (s.boundary = true → q.zeroHeld = true → zeroDue s p = true → q.switching = none → q.removal = none →
      (duskWaits s p = false → To (.zeroSliceExchange p) s (s.setPart p { q with switching := some { slot := s.slot } })) ∧
      (duskWaits s p = true → To (.zeroSliceExchange p) s s)) ∧
    (∀ l, (q.launches.find? fun x => x.id == l.id) = some l →
      (l.ticks < 1024 ∨ liveAll s p = false → To (.watchdogUnitTick p l.id) s s) ∧
      (l.status = .running → liveAll s p = true → 1024 ≤ l.ticks → l.cores.Nodup → TablesOk s → ∃ t, exec (.watchdogUnitTick p l.id) s = .next t ∧
        (∀ c ∈ l.cores, (t.core c).wdog.left = (s.core c).wdog.left - 1) ∧ t.threads = s.threads ∧ t.dies = s.dies)) ∧
    (∀ core, partOf s core = p →
      let w := (s.core core).wdog
      (w.left ≠ 0 ∨ s.cycle ≤ w.zeroAt → To (.watchdogExpiry core) s s ∧ To (.watchdogRemoval core) s s) ∧
      (∀ l, launchOf s core = some l → w.left = 0 → w.zeroAt < s.cycle →
        (w.fired = false → ∃ t, exec (.watchdogExpiry core) s = .next t ∧ (t.core core).wdog.fired = true ∧
          (t.core core).wdog.left = max 1 w.grace.toNat ∧ t.threads = s.threads) ∧
        (w.fired = true → q.removal = none →
          (q.switching = none → To (.watchdogRemoval core) s (removalStart s p)) ∧
          (q.switching ≠ none → q.removeDue = false → To (.watchdogRemoval core) s (s.setPart p { q with removeDue := true }))))) ∧
    (∀ r, q.removal = some r →
      (r.cycle + 4096 ≤ s.cycle → To (.removalDrainEnd p) s (removalEnd s p)) ∧
      (s.cycle < r.cycle + 4096 → To (.removalDrainEnd p) s s))

/-- R290, R292-R294, R307, R330-R335, R343-R345: the fabric, errors, cuts and power. A slot-table update takes effect at a boundary;
a circuit flit leaves by the outputs its slot feeds; an open slot goes to the oldest head flit; a lost port is out of use and
logged; an uncorrectable error poisons its place; power events act as R343 and R345 say. The model's choices and readings in it:
notes/assumptions 51, 55, 56, 57, 58, 86, 96. -/
def Obligations.FabricErrorsPower : Prop :=
  ∀ (s : State) (die : Nat),
    let d := s.die die
    (s.boundary = false → To (.slotTableUpdate die) s s) ∧
    (slotsDue s die = [] → To (.slotTableUpdate die) s s) ∧
    (s.boundary = true → slotsDue s die ≠ [] → TablesOk s → die < 4 → ∃ t, exec (.slotTableUpdate die) s = .next t ∧
      (t.die die).slotTable = (slotsDue s die).foldl (fun t x => loadSlots t x.2) d.slotTable ∧ (t.die die).slotOld = d.slotTable ∧
      (t.die die).slotSince = s.slot ∧ (t.die die).slotPending = (d.slotPending.filter fun x => !decide (x.1 < s.slot)) ∧
      t.threads = s.threads ∧ t.cores = s.cores) ∧
    (∀ port (f : Flit), die < 4 → port < 8 ∨ port = 11 → d.deadPorts.contains port = false →
      let took := s.setDie die { d with inSlot := d.inSlot.filter (fun x => x.1 != port) ++ [(port, s.slot)] }
      let outs := fedOuts s die port s.slot
      (d.slotSince ≤ s.slot → ∀ o, o ∈ outs ↔
        o < 12 ∧ selOf (tget d.slotTable (s.slot % 256) 0) o = some port ∧ branchOk s 16 die o s.slot s.slot = true) ∧
      (d.inSlot.contains (port, s.slot) = true → To (.flitArrival die port f) s s) ∧
      let drops := port < 8 ∧ f.write = true ∧ tagCurrent s (.ingress die port) f.tag = false
      let waits := f.cls = none ∧ (slotsWait s = true ∨ ∃ o ∈ outs, outFree s die o = false)
      (d.inSlot.contains (port, s.slot) = false →
        (waits → To (.flitArrival die port f) s s) ∧
        (¬waits → drops → To (.flitArrival die port f) s (countLate took (tagPart f.tag))) ∧
        (¬drops → ∀ c, f.cls = some c → To (.flitArrival die port f) s
          (took.setDie die { took.die die with buffers := (took.die die).buffers ++ [{ port, f }] })) ∧
        (¬drops → ¬waits → f.cls = none →
          (carried s die port f = true → To (.flitArrival die port f) s (outs.foldl (fun s o => sendFlit s die o s.slot f) took)) ∧
          (carried s die port f = false → To (.flitArrival die port f) s took)))) ∧
    (∀ o start (f : Flit),
      let sends := s.setDie die { d with outSlot := d.outSlot.filter (fun x => x.1 != o) ++ [(o, s.slot)] }
      (o < 8 → sendFlit s die o start f = sent sends (.flit die o f)) ∧
      (8 ≤ o → o ≤ 10 → die < 4 → ∃ e j,
        sendFlit s die o start f = { sends with transit := s.transit ++ [{ die := e, port := j, slot := s.slot + 1, start, f }] } ∧
        e = (die + (o - 7)) % 4 ∧ 8 ≤ j ∧ j ≤ 10 ∧ (e + (j - 7)) % 4 = die) ∧
      (o = 11 → (f.write = true → tagCurrent s (.ingress die 11) f.tag = false →
          sendFlit s die o start f = countLate sends (tagPart f.tag)) ∧
        (f.write = false ∨ tagCurrent s (.ingress die 11) f.tag = true → sendFlit s die o start f = sent sends (.flit die 11 f)))) ∧
    (∀ out b, die < 4 → out < 12 → d.deadPorts.contains out = false →
      (d.outSlot.contains (out, s.slot) = true → To (.openSlotGrant die out) s s) ∧
      (d.outSlot.contains (out, s.slot) = false →
        oldestFlit ((headFlits d.buffers []).filter fun b => needsOut s die out b.f) = some b →
          To (.openSlotGrant die out) s
            (sendFlit (s.setDie die { d with buffers := d.buffers.erase b }) die out s.slot { b.f with route := b.f.route.drop 1 }))) ∧
    (∀ out (f : Flit) o, f.route.head? = some o → (needsOut s die out f = true ↔ o = out ∨ (out < 8 ∧ o ∈ d.deadPorts))) ∧
    (∀ port, To (.linkFlitRetry port) s s ∧
      (port < 32 → (s.die (port / 8)).deadPorts.contains (port % 8) = false → To (.portLost port) s
        (logErr (s.setDie (port / 8) { s.die (port / 8) with deadPorts := (s.die (port / 8)).deadPorts ++ [port % 8] })
          (port / 8) 4 10 Config.emptyTag port)) ∧
      (port < 32 → To (.linkRetrained port) s (logErr (s.setDie (port / 8) { s.die (port / 8) with
        deadPorts := (s.die (port / 8)).deadPorts.filter (· != port % 8) }) (port / 8) 3 10 Config.emptyTag port))) ∧
    (∀ line, To (.patrolScrub die line) s s) ∧
    (∀ l, To (.softErrorCorrected die l) s (logErr (match l with
        | .hbm d line => countStack s d (64 * line) fun c => { c with corr := c.corr + 1 }
        | _ => s) (die % 4) 1 (errPlace s l).2.1 (errPlace s l).2.2.2 (errPlace s l).2.2.1)) ∧
    (∀ line, die < 4 → TablesOk s → ∃ t, exec (.uncorrectableError (.hbm die line)) s = .next t ∧
      tfind (t.die die).hbm.poison line = some .data ∧ (t.die die).hbm.cells = d.hbm.cells ∧ (t.die die).hbm.tags = d.hbm.tags ∧
      (t.die die).errlog = d.errlog ++ [{ kind := 2, store := 0, tag := d.hbm.tag line, repeats := 0, loc := 64 * line, tick := s.tick }]) ∧
    (∀ tid n, To (.uncorrectableError (.pred tid n)) s (logErr (s.setThread tid { s.thread tid with
      lost := (s.thread tid).lost ++ [.pred n] }) (dieOf (coreOf tid)) 2 6 (s.thread tid).tag (errIdx tid (3 * 2 ^ 16 + n)))) ∧
    (∀ i b, d.tcache[i]? = some b → To (.uncorrectableError (.tblock die i)) s
      (logErr (s.setDie die { d with tcache := d.tcache.eraseIdx i }) die 2 9 (BitVec.ofNat 12 (b.part * 256 + b.gen)) i)) ∧
    -- an error in a shadow bank is one of the storage that stands there
    (∀ g x c u, (s.group g).shadow = some x → c ∈ groupCores g → TablesOk s →
      ∃ t y, exec (.uncorrectableError (.shadow g (.near c u))) s = .next t ∧ (t.group g).shadow = some y ∧ y.part = x.part ∧
        (tget y.cores c {}).near = (tget x.cores c {}).near.setPoison u (some .data) ∧ ∀ k ∈ groupCores g, t.core k = s.core k) ∧
    (∀ job c, s.cuts = [c] → c.job = job.toNat → (jobDies s c.job).contains die = true → c.reached.contains die = false →
      To (.cutMarker die job) s { s with cuts := [{ c with
        reached := c.reached ++ [die],
        counts := if (jobDies s c.job).all fun e => (c.reached ++ [die]).contains e then cutCounts s c.job else c.counts }] }) ∧
    (∀ i ∈ [Instr.vcoreLimit, .vauxLimit, .tdpLimit, .junctionTempLimit], To i s { s with clockMhz := s.clockMhz - 50 }) ∧
    To .vmemLimit s { s with laneTags := 4 } ∧
    (∀ n, n < 32 → (s.die (n / 8)).deadPorts.contains (n % 8) = false →
      (∀ m, n < m → m < 32 → (s.die (m / 8)).deadPorts.contains (m % 8) = true) →
        ∃ t, To .vlinkLimit s t ∧ To (.portLost n) s t) ∧
    To .criticalTemp s (firmwareFailure s) ∧
    (∃ t, To .powerOn s t ∧
      t = { State.reset with agenda := s.agenda, cur := s.cur, fresh := s.fresh, boots := s.boots + 1, out := s.out, dies := t.dies } ∧
      ∀ e, e < 4 →
        let failed := (List.range 8).filter fun k => Config.portFails (s.boots + 1) (8 * e + k)
        t.die e = { deadPorts := failed, errlog := failed.map fun k =>
          { kind := 4, store := 10, tag := Config.emptyTag, repeats := 0, loc := 8 * e + k, tick := 0 } })

/-- R275-R277, R293, R296, R337, R338, R342, R344, R347: the host and the management class. A packet or an event request of an entry
with the current tag is done under it and answered; one of an ended generation is dropped, a write counted; management requests are
answered, and firmware runs only if it verifies. The model's choices and readings in it: notes/assumptions 7, 9, 52, 53, 54, 67, 93,
94, 105, 106. -/
def Obligations.HostAndManagement : Prop :=
  ∀ (s : State),
    (∀ port k p i tag, s.firmware = .running → ingressOf s k.tenancy = some (p, i, tag) →
      let die := port / 8 % 4
      let w : Who := { tag }
      let ack := fun s => sent s (.ack k.tenancy.toNat)
      let data := fun s l => sent s (.data k.tenancy.toNat l)
      (tagCurrent s (.ingress die (port % 8)) tag = true →
        (∀ a bs ls, k.op = .write a bs → flatPlaces s p a bs.length .store = some ls →
          To (.hostPacketIngress port k) s (ack (storePlaces (askPlaces s die w ls false) w (ls.zip bs)))) ∧
        (∀ a n ls bs s1, k.op = .read a n → flatPlaces s p a n .load = some ls → readPlaces w ls s = some (bs, s1) →
          To (.hostPacketIngress port k) s (data (askPlaces s1 die w ls true) bs)) ∧
        (∀ a n v ls bs s1, k.op = .add a n v → n = 4 ∨ n = 8 → a % n = 0 → flatPlaces s p a n .atomic = some ls →
          readPlaces w ls s = some (bs, s1) → To (.hostPacketIngress port k) s
            (data (storePlaces (askPlaces s1 die w ls true) w (ls.zip (leBytes n ((leNat bs + v) % 2 ^ (8 * n))))) bs))) ∧
      (tagCurrent s (.ingress die (port % 8)) tag = false →
        (∀ a n, k.op = .read a n → To (.hostPacketIngress port k) s s) ∧
        (∀ a bs, k.op = .write a bs → To (.hostPacketIngress port k) s (countLate s p)) ∧
        (∀ a n v, k.op = .add a n v → To (.hostPacketIngress port k) s (countLate s p)))) ∧
    (∀ (id : BitVec 16) p i tag, s.firmware = .running → ingressOf s id = some (p, i, tag) →
      let w : Who := { tag }
      let ack := fun s => sent s (.ack id.toNat)
      let data := fun s l => sent s (.data id.toNat l)
      (tagCurrent s (.hostNode id.toNat) tag = true →
        To (.eventRead id) s (data s (eventBytes s tag p)) ∧
        (∀ bit, eventSeen s w p bit.toNat = true → To (.eventWait id bit) s (data s [1])) ∧
        (∀ bit, eventSeen s w p bit.toNat = false → ((s.part p).eventWaits.filter fun e => e.entry == i).length < 16 →
          To (.eventWait id bit) s (s.setPart p { s.part p with eventWaits := (s.part p).eventWaits ++ [{ entry := i, bit := bit.toNat, id := id.toNat, tag }] })) ∧
        (∀ bit, eventSeen s w p bit.toNat = false → 16 ≤ ((s.part p).eventWaits.filter fun e => e.entry == i).length →
          To (.eventWait id bit) s (sent s (.error id.toNat))) ∧
        (∀ bit, To (.eventSet id bit) s (ack (writeEvent s { tag } p bit.toNat true)) ∧
          To (.eventClear id bit) s (ack (writeEvent s { tag } p bit.toNat false)))) ∧
      (tagCurrent s (.hostNode id.toNat) tag = false →
        To (.eventRead id) s s ∧
        (∀ bit, To (.eventWait id bit) s s ∧ To (.eventSet id bit) s (countLate s p) ∧ To (.eventClear id bit) s (countLate s p)))) ∧
    (∀ port k, s.firmware = .running → ingressOf s k.tenancy = none → To (.hostPacketIngress port k) s
      (logErr (sent s (.error k.tenancy.toNat)) (port / 8 % 4) 5 10 Config.emptyTag k.tenancy.toNat)) ∧
    (∀ port k bit, s.firmware ≠ .running → To (.hostPacketIngress port k) s s ∧ To (.eventRead k.tenancy) s s ∧
      To (.eventWait k.tenancy bit) s s ∧ To (.eventSet k.tenancy bit) s s ∧ To (.eventClear k.tenancy bit) s s) ∧
    (∀ p j (e : EventWait), (s.part p).eventWaits[j]? = some e →
      (eventSeen s { tag := e.tag } p e.bit = false → To (.eventWaitReply p j) s s) ∧
      (eventSeen s { tag := e.tag } p e.bit = true → To (.eventWaitReply p j) s (sent
        (s.setPart p { s.part p with eventWaits := (s.part p).eventWaits.eraseIdx j })
        (.data e.id [1])))) ∧
    (∀ d m, mgmtReply s d m = if s.firmware = .running then notify (sent s m) d .mgmt else sent s m) ∧
    (∀ image, s.firmware ≠ .running → TablesOk s → ∃ t, To (.firmwareLoad image) s t ∧
      if firmwareVerifies image then t.firmware = .running ∧ t.fwImage = image ∧
          ∀ d, d < 4 → t.thread (2 * (256 + d) + 1) = { status := .running, tag := tagOf s 0 }
        else t = mgmtReply s 0 .mgmtError) ∧
    (∀ image, s.firmware = .running → To (.firmwareLoad image) s (mgmtReply s 0 .mgmtError)) ∧
    (∀ image, firmwareVerifies image = (ecdsaVerify Config.firmwareEcdsaKey (sha384 (Config.firmwareParts image).1) (Config.firmwareParts image).2.1
      && hssVerify Config.firmwareHssKey (Config.firmwareParts image).1 (Config.firmwareParts image).2.2)) ∧
    (∀ part x, 16 ≤ part ∨ 32768 ≤ s.hssSigned ∨ Config.SpdmOption.other ∈ Config.spdmOptions x →
      To (.spdmMeasurements part x) s (mgmtReply s 0 .mgmtError)) ∧
    (∀ part x, part < 16 → s.hssSigned < 32768 → Config.SpdmOption.other ∉ Config.spdmOptions x →
      ∃ t, To (.spdmMeasurements part x) s t ∧ t.hssSigned = s.hssSigned + 1 ∧ t.fresh = s.fresh + 1 ∧
      let m := measurements s part
      let head := [0x13, 0x60, 0, 0, 5] ++ leBytes 3 m.length ++ m ++ beBytes 32 (Config.spdmNonce s.fresh).toNat
      let hash := sha384 (x ++ head)
      let opaque_ := hssPart s hash
      t.out = s.out ++ [.mgmt (head ++ leBytes 2 opaque_.length ++ opaque_ ++ x.drop (x.length - 8) ++
        ecdsaSign Config.ecdsaKey (Config.ecdsaNonce s.fresh) hash)]) ∧
    (∀ part x, part < 16 → ∃ t, To (.spdmSecuredSession part x) s t ∧
      if (Config.spdmOptions x).all (fun o => decide (o ≠ .other)) then
        (t.part part).sessions = (s.part part).sessions ++ [(s.fresh, 0)] ∧ t.fresh = s.fresh + 1 ∧
          t.out = s.out ++ [.mgmt (Config.spdmAnswer s.fresh x)]
      else t = mgmtReply s 0 .mgmtError) ∧
    (∀ part a l, match sessionOf (s.part part).sessions l with
      | none => To (.spdmKeyDelivery part a l) s (mgmtReply s 0 .mgmtError)
      | some (k, keys) =>
        let s1 := s.setPart part { s.part part with sessions := (s.part part).sessions.modify k fun x => (x.1, x.2 + 1) }
        if (List.range keys.length).all (fun i => ownsFlat s part (a + i)) then
          To (.spdmKeyDelivery part a l) s (mgmtReply (flatWrite s1 (tagOf s part) a keys) 0
            (.mgmt (sealMessage ((s.part part).sessions.getD k (0, 0)) l [])))
        else To (.spdmKeyDelivery part a l) s (mgmtReply s1 0 .mgmtError)) ∧
    (∀ d k, ∃ t1 t2 t3, To (.healthReportRead d) s t1 ∧ t1.out = s.out ++ [.mgmt (healthReport s (d % 4))] ∧
      To (.errorLogRead d) s t2 ∧ t2.out = s.out ++ [.mgmt ((s.die d).errlog.flatMap errBytes)] ∧
      To (.counterBlockRead d k) s t3 ∧ t3.out = s.out ++ [.mgmt (counterBytes (tget (s.die d).counters k {}))]) ∧
    (∀ n, (s.tenantRan = false → (∀ p, 0 < p → p < 16 → (s.part p).isOpen = false) →
        To (.regulatorSourceSelect n) s (mgmtReply { s with regulator := some n } 0 (.mgmt [])) ∧
        (s.pkgSet = false → To (.packageNumberSet n) s (mgmtReply { s with pkgNum := n, pkgSet := true } 0 (.mgmt [])))) ∧
      (s.tenantRan = true → To (.regulatorSourceSelect n) s (mgmtReply s 0 .mgmtError)) ∧
      (s.pkgSet = true ∨ s.tenantRan = true → To (.packageNumberSet n) s (mgmtReply s 0 .mgmtError)))

namespace Sys2Proof.Spec

/-- A tag that a pass of the partition has left: none, another partition's, or one of the generation its checking point holds. -/
def sweptTag (s : State) (p : Nat) (pt : Point) (tag : Tag) : Prop :=
  tag ≠ Config.emptyTag → tagPart tag = p → tagCurrent s pt tag = true

/-- A core's near store, tiles, queue entries, patterns and translation fills after a pass (R262, R267). -/
def sweptCore (s : State) (p core : Nat) (c : Core) : Prop :=
  (∀ u ∈ c.near.tags, sweptTag s p (.near core) u.2) ∧ (∀ u ∈ c.tiles.tags, sweptTag s p (.tiles core) u.2) ∧
  (∀ q ∈ c.queues, ∀ e ∈ q.2, sweptTag s p (.queue core) e.tag) ∧ (∀ x ∈ c.patterns, sweptTag s p (.core core) x.2.tag) ∧
  (∀ e ∈ c.tlb, sweptTag s p (.port (dieOf core)) e.tag)

/-- A thread's own tag and those of its call frames after a pass. -/
def sweptThread (s : State) (p tid : Nat) (t : Thread) : Prop :=
  sweptTag s p (.core (coreOf tid)) t.tag ∧ ∀ f ∈ t.frames, sweptTag s p (.core (coreOf tid)) f.tag

end Sys2Proof.Spec

/-- R43, R44, R267, R272, R273: translation and sweeps. A translated block is one a fetch at its address would make; a walk fills
its core's TLB only under the version it started with; a sweep starts by itself 192 generations above the low mark, and its end
leaves no tag of an ended generation of its partition in storage and sets the low mark. The model's choices and readings in it:
notes/assumptions 43, 60, 66. -/
def Obligations.TranslationAndSweeps : Prop :=
  ∀ (s : State) (p : Nat),
    (∀ die addr c s1 b, die < 4 → addr % 8 = 0 → coreFor s die p = some c → fetchBlock s c addr = .ok (s1, b) →
      To (.blockTranslation die p addr) s s1) ∧
    (∀ die addr, addr % 8 ≠ 0 → To (.blockTranslation die p addr) s s) ∧
    (∀ core (w : WalkReq) e l, partOf s core = p → p ≠ 0 →
      let d := coreDesc s core w.handle
      let c := [w.c0, w.c1, w.c2, w.c3]
      coordsOk d c = true → findShard s (s.core core).view d w.handle c (d.scnt + 1) 0 = some e → shardLocal s e = true →
      tagPart w.tag = p → walk s (shardDie e c) e.root (pageOf d e c).1 = some l →
        let key := p * 2 ^ 21 + w.handle * 2 ^ 8 + e.idx
        let asked := walkAsks s core (shardDie e c) w.tag (walkReads s (shardDie e c) e.root (pageOf d e c).1)
        let lost := (shardPoison s (s.core core).view d w.handle c (d.scnt + 1) 0).isSome ||
          (walkPoison s (shardDie e c) e.root (pageOf d e c).1).isSome
        (tget s.ptVersions key 0 ≠ w.version ∨ tagCurrent s (.port (dieOf core)) w.tag = false ∨ lost = true →
          To (.pageWalkComplete core w) s asked) ∧
        (tget s.ptVersions key 0 = w.version → tagCurrent s (.port (dieOf core)) w.tag = true → lost = false →
          ∃ t, exec (.pageWalkComplete core w) s = .next t ∧ t.dies = asked.dies ∧ ∃ x ∈ (t.core core).tlb,
          x.handle = w.handle ∧ x.tag = w.tag ∧ x.page = l.page ∧ x.frame = l.frame ∧ x.r = l.r ∧ x.w = l.w ∧ x.x = l.x)) ∧
    (0 < p → p < 16 → s.sweeps.any (·.part == p) = false →
      (192 ≤ ((s.part p).gen - (s.part p).low).toNat →
        To (.sweepAutoStart p) s { s with sweeps := s.sweeps ++ [{ part := p, s := (s.part p).gen, asked := none }] }) ∧
      (((s.part p).gen - (s.part p).low).toNat < 192 → To (.sweepAutoStart p) s s)) ∧
    (∀ w rest, s.sweeps = w :: rest → w.part = p → TablesOk s → MemWf s →
      ∃ t, exec (.sweepPassComplete p) s = .next t ∧ (t.part p).low = w.s ∧
        (let more := p ≠ 0 ∧ rest.any (·.part == p) = false ∧ 192 ≤ ((s.part p).gen - w.s).toNat
         (more → t.sweeps = rest ++ [{ part := p, s := (s.part p).gen, asked := none }]) ∧ (¬more → t.sweeps = rest)) ∧
        (∀ e ∈ t.dies, (∀ u ∈ e.2.hbm.tags, sweptTag s p (stPoint (.hbm e.1) (64 * u.1)) u.2) ∧
          ∀ u ∈ e.2.bank.tags, sweptTag s p (stPoint (.bank e.1) (64 * u.1)) u.2) ∧
        (∀ e ∈ t.cores, sweptCore s p e.1 e.2) ∧ (∀ e ∈ t.threads, sweptThread s p e.1 e.2) ∧
        (∀ g ∈ t.groups, (∀ f ∈ g.2.flags, sweptTag s p (.flags g.1) f.2.tag) ∧ ∀ x, g.2.shadow = some x →
          (∀ f ∈ x.flags, sweptTag s p (.flags g.1) f.2.tag) ∧ (∀ c ∈ x.cores, sweptCore s p c.1 c.2) ∧
          ∀ h ∈ x.threads, sweptThread s p h.1 h.2) ∧
        (∀ q ∈ t.parts, (∀ e ∈ q.2.events, sweptTag s p .events e.2.tag) ∧
          ∀ e ∈ q.2.ingress, sweptTag s p (.hostNode e.id) e.tag) ∧
        (∀ st a tag, (∀ d, st ≠ .dev d) → tagPart tag ≠ p → readByte t { tag } st a = readByte s { tag } st a))

namespace Sys2Proof.Spec

open Sys2Proof Sys2Proof.Machine Sys2Proof.Safety

/-- Nothing stands in the way of the current thread's next instruction: it may run, it does not wait for a step of the machine, and
no cause, step or stop comes first. -/
def AtInstruction (s : State) : Prop :=
  mayRun s s.cur = true ∧ (match s.th.status with | .running => true | .waiting w => !w.byEvent | _ => false) = true ∧ s.th.pend = [] ∧
    s.th.stepMode ≠ .fired ∧ s.th.hard = false ∧ s.th.soft = false

/-- The state in which the current thread acts: a cycle on if it waits, and in its turn among the sources of a cycle (R199). -/
def turnOf (s : State) : State := inTurn (restCycle s s.cur) (sourceRank (coreOf s.cur) false)

/-- The bits of a word from a header and a body, as R46 lays them out. -/
def wordOf (maj : BitVec 4) (min : BitVec 8) (stg : BitVec 3) (grd : BitVec 7) (gsn : BitVec 1) (body : BitVec 41) : Word :=
  maj ++ min ++ stg ++ grd ++ gsn ++ body

end Sys2Proof.Spec

open Sys2Proof Sys2Proof.Machine Sys2Proof.Safety Sys2Proof.Spec

/-- R50, R80, R94, R286: what an instruction that has been done leaves, whatever it appends: the values are the newest of the window
of 64, flags are added, the pc passes its words, a single step has fired; a draining loop records the values and a refilling one has
used as many; nothing else of the thread and nothing outside it changes, in any byte of storage. -/
def Obligations.Finishing : Prop :=
  ∀ (s : State) (vs : List Val) (fl : Flags) (n : Nat),
    let t := finishIn s vs fl n
    let done : Thread := { s.th with
      status := .running, entered := false, atEntry := false, fpstat := s.th.fpstat ||| fl, pc := s.th.pc + BitVec.ofNat 64 n,
      window := (vs.reverse ++ s.th.window).take 64, stepMode := if s.th.stepMode = .armed then .fired else s.th.stepMode }
    ((∀ l, s.th.loop = some l → l.mode = .normal) → t.th = done) ∧
    (∀ l j kept old, s.th.loop = some l → l.mode = .drain j kept old →
      t.th = { done with loop := some { l with mode := .drain j kept (old ++ vs) } }) ∧
    (∀ l j old, s.th.loop = some l → l.mode = .refill j old →
      t.th = { done with loop := some { l with mode := .refill j (old.drop vs.length) } }) ∧
    t = { s with threads := t.threads } ∧ (∀ j, j ≠ s.cur → t.thread j = s.thread j) ∧
    ∀ w st a, readByte t w st a = readByte s w st a

/-- R55: a disabled instruction has no effect but zeros of the kinds it appends, for the families named; a transfer is not taken
where no head at its target disagrees. The model's choices and readings in it: notes/assumptions 22. -/
def Obligations.DisabledHasNoEffect : Prop :=
  ∀ (s : State) (h : Hdr) (x : FmtA) (i : FmtI) (m : FmtM) (y : FmtY) (f : FmtS) (b : FmtB) (r : FmtR) (vs : List Val), Disabled s h →
    (getOps s.th [sc x.opa] = .ok vs → ∀ k ∈ [Instr.clz h x, .ctz h x, .popc h x, .bnet h x, .cvt h x, .sqrt h x, .mov h x],
      Does k s [.s 0]) ∧
    (getOps s.th [sc x.opa, sc x.opb] = .ok vs →
      ∀ k ∈ [Instr.add h x, .sub h x, .mul h x, .mulh h x, .div h x, .rem h x, .and_ h x, .or_ h x, .xor_ h x, .andn h x, .shl h x,
        .shr h x, .sar h x, .rotl h x, .min h x, .max h x, .cmp3 h x, .bfx h x, .lea h x], Does k s [.s 0]) ∧
    (getOps s.th [sc x.opa, sc x.opb, sc x.opc] = .ok vs → ∀ k ∈ [Instr.mad h x, .sel h x, .bfi h x], Does k s [.s 0]) ∧
    (getOps s.th [vc x.opa, vc x.opb] = .ok vs → ∀ k ∈ [Instr.vadd h x, .vsub h x, .vmul h x, .vand h x, .vor h x, .vxor h x],
      Does k s [.v 0]) ∧
    (getOps s.th [sc i.opa] = .ok vs → ∀ k ∈ [Instr.lih h i, .addi h i, .andi h i, .ori h i, .xori h i, .shli h i, .shri h i, .sari h i],
      Does k s [.s 0]) ∧
    (Does (.li h i) s [.s 0] ∧ Does (.lf h i) s [.s 0] ∧ Does (.gen h f) s [.s 0] ∧ Does (.csrr h f) s [.s 0]) ∧
    (getOps s.th [sc m.opa] = .ok vs → Does (.ldi h m) s [.s 0] ∧ Does (.ldn h m) s [.s 0] ∧ Does (.ldv h m) s [.v 0]) ∧
    (getOps s.th [sc m.opa, sc m.opb] = .ok vs → Does (.st h m) s []) ∧
    (getOps s.th [sc y.opa, sc y.opb] = .ok vs →
      ∀ k ∈ [Instr.amoAdd h y, .amoMin h y, .amoMax h y, .amoAnd h y, .amoOr h y, .amoXor h y, .amoSwap h y, .amoFadd h y],
        Does k s [.s 0]) ∧
    (Does (.fence h y) s [] ∧ Does (.sync h y) s [] ∧ Does (.done h b) s [] ∧ Does (.brk h b) s [] ∧ Does (.trap h b) s [] ∧
      Does (.alive h b) s [] ∧ Does (.pset h f) s [] ∧ Does (.lease h f) s [] ∧ Does (.unlease h f) s [] ∧ Does (.mwait h f) s []) ∧
    (b.nps.toNat ≤ s.th.window.length → Does (.ret h b) s [] ∧
      (headCheck s (s.th.pc + 8 * b.off.signExtend 64).toNat (s.th.window.take b.nps.toNat).reverse = true →
        Does (.jmp h b) s [] ∧ Does (.call h b) s [])) ∧
    (getOps s.th (overrides r) = .ok vs →
      ∀ k ∈ [Instr.mmul h r, .mmulc h r, .mmod h r, .mtr h r, .cp h r, .cpcv h r, .cpdz h r, .cpbk h r, .coll h r, .mig h r, .migrep h r,
        .note h r], exec k s = .next (finishIn s [] 0 64)) ∧
    (∀ k ∈ privileged0 h f, Does k s []) ∧
    (getOps s.th [sc f.opa] = .ok vs →
      (∀ k ∈ [Instr.dawn h f, .part h f, .cutmark h f, .slotld h f], Does k s []) ∧
      (∀ k ∈ [Instr.dusk h f, .sweep h f, .ctxsave h f, .ctxrest h f, .tdsync h f, .pull h f], Does k s [.s 0])) ∧
    (getOps s.th [sc f.opa, sc f.opb] = .ok vs → ∀ k ∈ privileged2 h f, Does k s [])

/-- R46, R57-R65, R71, R142: words written out from their encodings decode to the instructions they stand for, one of each major;
reserved words do not. -/
def Obligations.DecodedWords : Prop :=
  let h : Hdr := { stg := 0, grd := 127, gsn := 0 }
  decode [0xE001FC0000000000] = .ok (.nop h { opa := 0, opb := 0, dst := 0, aux := 0 }) ∧
  decode [0x1001FC0000800008] = .ok (.add h { opa := 0, opb := 1, opc := 0, clp := 0, scl := 0, typ := 0x08 }) ∧
  decode [0x2001FC0100800012] = .ok (.vadd h { opa := 1, opb := 1, opc := 0, clp := 0, scl := 0, typ := 0x12 }) ∧
  decode [0x3001FC00FFFFFFFF] = .ok (.li h { opa := 0, imm := 0xFFFFFFFF }) ∧
  decode [0x60020E0010FFFFFE] = .ok (.jmp { stg := 1, grd := 3, gsn := 1 } { opa := 0, nps := 1, aux4 := 0, off := 0xFFFFFE }) ∧
  decode [0x7001FC0000328FF8] = .ok (.ldi h { opa := 0, opb := 0, size := 3, ord := 1, scp := 2, mca := 0, rsv := 0, disp := 0xFF8 }) ∧
  decode [0xD011FC0000000000] = .ok (.dusk h { opa := 0, opb := 0, dst := 0, aux := 0 }) ∧
  decode [0xC001FC0000000000, 0, 0x3120000000020000, 0, 0x3220000000000000, 0, 0x3220000000010000, 0] =
    .ok (.mmul h ⟨0, 0, 0, 0, 0, 0, 0, 0, 0, 0, 0x3120000000020000, 0, 0x3220000000000000, 0, 0x3220000000010000, 0⟩) ∧
  decode [0] = .ok (.nonInstructionWord 0) ∧ decode [0xF000000000000000] = .ok (.nonInstructionWord 0xF000000000000000) ∧
  decode [0x1001900000800008] = .error .guard ∧ decode [0x1001FE0000800008] = .error .sense

/-- R46, R57-R68: for every word instruction and every operand its encoding admits, decoding the encoding gives the instruction
back, and a decoded instruction's encoding is what was decoded. -/
def Obligations.DecodeEncodeRoundTrip : Prop :=
  (∀ (i : Instr) (rest : List Word), i.WellFormed → decode (encode i ++ rest) = .ok i) ∧
  ∀ (ws : List Word) (i : Instr), decode ws = .ok i → i.WellFormed ∧ ∃ rest, ws = encode i ++ rest

/-- R40, R43, R68, R72: a step runs the decoded instruction. Where the words fetched at the pc decode to an instruction whose place
and profile are right, `step` is `exec` of it in the state with its block fetched; where they do not, `step` raises 0x01 or 0x05 (a
wrong place first, log 19). Words come from storage as the partition reads it. A move of the schedule picks the thread or the
machine's own step; of a cause pending and a cause of the instruction there, the one that R284 puts first is taken. The model's
choices and readings in it: notes/assumptions 1, 19, 66, 70, 72, 79, 95, 100. -/
def Obligations.StepRunsDecoded : Prop :=
  (∀ (s s1 : State) (b : Block) (ws : List Word), s.agenda = [] → s.cur < 520 → AtInstruction (turnOf s) →
    fetchWords (turnOf s) s.cur = .ok (s1, b, ws) →
    let placed := placeOk (s1.thread s.cur) (ws.headD 0)
    (∀ i, decode ws = .ok i → assigned (ws.headD 0) = true →
      (placed = true → declared b (ws.headD 0) = true → step s = exec i s1) ∧
      (placed = false → step s = .next (raise s (wordTrap (s1.thread s.cur) 0x01))) ∧
      (placed = true → declared b (ws.headD 0) = false → step s = .next (raise s (wordTrap (s1.thread s.cur) 0x05)))) ∧
    (∀ r, decode ws = .error r → step s = .next (raise s (wordTrap (s1.thread s.cur) 0x01)))) ∧
  (∀ (s : State) (t : Trap), s.agenda = [] → s.cur < 520 → AtInstruction (turnOf s) → fetchWords (turnOf s) s.cur = .error t →
    step s = .next (raise (turnOf s) t)) ∧
  -- the turn changes time at most: it passes a cycle where the thread waits, or a later source has acted in this one
  (∀ (s : State), (∀ w, s.th.status ≠ .waiting w) → sourceRank (coreOf s.cur) false + 1 < s.lastSource →
    (turnOf s).cycle = s.cycle + 1) ∧
  (∀ (s : State), (∀ w, s.th.status ≠ .waiting w) → s.lastSource ≤ sourceRank (coreOf s.cur) false + 1 →
    turnOf s = { s with lastSource := sourceRank (coreOf s.cur) false + 1 }) ∧
  (∀ (s : State) (d a stop : Nat) (pf : List Nat), s.th.blk = none → TablesOk s → dieOf (coreOf s.cur) < 4 →
    codePlace s (coreOf s.cur) s.th.pc.toNat = .ok { place := { store := .hbm d, addr := a }, profiles := pf, stop } →
    (s.die (dieOf (coreOf s.cur))).tcache = [] →
    let w := whoOf s s.cur
    let word := BitVec.ofNat 64 (leNat (readBytes s w (.hbm d) a 8))
    (∀ i, i < 8 * wordLen word → freeSource s w (.hbm d) (a + i) = none) →
    poisonIn s w (.hbm d) a (8 * wordLen word) = none → 8 * wordLen word ≤ 4096 - a % 4096 →
    s.th.pc.toNat + 8 * wordLen word ≤ stop →
      ∃ s1 b ws, fetchWords s s.cur = .ok (s1, b, ws) ∧
        (∀ k, k < wordLen word → ws[k]? = some (BitVec.ofNat 64 (leNat (readBytes s w (.hbm d) (a + 8 * k) 8)))) ∧
        s1.parts = s.parts ∧ s1.cores = s.cores ∧ s1.groups = s.groups ∧ ∀ e, (s1.die e).hbm = (s.die e).hbm) ∧
  ∀ (s : State) (m : Move) (l : List Move), s.agenda = m :: l →
    let s1 := { s with agenda := l }
    (∀ i, m = .event i → isEvent i = true → (∀ tid, i ≠ .pendingCauseTaken tid ∧ i ≠ .singleStep tid) →
      step s = exec i (inTurnOf s1 (sourceOf s i))) ∧
    (∀ tid, m = .thread tid → tid < 520 →
      step s = threadStep (inTurn { s1 with cur := tid } (sourceRank (coreOf tid) false))) ∧
    (∀ tid, m = .thread tid → 520 ≤ tid → step s = .fault .noThread) ∧
    (∀ tid, let t := s.thread tid
      let s2 := { s1 with cur := tid }
      let back := fun (u : State) => Host.Outcome.next { u with cur := s.cur }
      (m = .event (.pendingCauseTaken tid) → mayTake s2 tid = true → t.pend ≠ [] →
        (t.status = .done ∨ lossDue t = true ∨ (∃ c, firstPend t.pend = some c ∧ pendRank c = 0) → step s = back (takePend s2 tid)) ∧
        (t.status ≠ .done → lossDue t = false → (∀ c, firstPend t.pend = some c → pendRank c ≠ 0) →
          (∀ u, instrStep s2 = .next u → (u.thread tid).status = .trapped → step s = back u) ∧
          (∀ u, instrStep s2 = .next u → (u.thread tid).status ≠ .trapped → u.firmware ≠ .failed →
            step s = back (takePend s2 tid)))) ∧
      (m = .event (.singleStep tid) → mayTake s2 tid = true → t.stepMode = .fired → t.pend = [] → t.status ≠ .done →
        (∀ u, instrStep s2 = .next u → (u.thread tid).status = .trapped → step s = back u) ∧
        (∀ u, instrStep s2 = .next u → (u.thread tid).status ≠ .trapped → u.firmware ≠ .failed →
          step s = back (takePend s2 tid)))) ∧
    (∀ p pts, m = .lag p pts → step s = .next (s1.setPart p { s1.part p with slow := pts })) ∧
    (∀ p pt, m = .install p pt → step s = .next (s1.setPart p { s1.part p with behind := (s1.part p).behind.filter (· != pt) })) ∧
    (∀ p image, m = .codeObject p image → step s =
      .next (s1.setPart p { s1.part p with objects := (s1.part p).objects ++ [sha384 image] })) ∧
    (∀ c n, m = .pass c n → TablesOk s → ∃ t, step s = .next t ∧ t.cycle = s.cycle + c ∧ t.slot = s.slot + n ∧
      (∀ tid, (∀ g i v o k, (s.thread tid).status ≠ .waiting (.flag g i v o k)) →
        (∀ i o k, (s.thread tid).status ≠ .waiting (.event i o k)) → t.thread tid = s.thread tid) ∧
      -- a cycle that ends ends the waits on flags whose condition holds then
      (∀ tid g i v o k f, 0 < c → o ≠ 4 → (s.thread tid).status = .waiting (.flag g i v o k) → flagRead s tid g i = .ok f →
        mayRun s tid = true → stopDue (s.thread tid) = false →
          t.thread tid = if (f - v).toNat < 2 ^ 31 then finishThread (s.thread tid) [] 0 else s.thread tid))

/-- R268, R309: while raw-access mode is locked no die is in it, and every step keeps that. -/
def Obligations.RawLockKept : Prop := ∀ (s t : State), RawLocked s → step s = .next t → RawLocked t

/-- Every step keeps tables in rising order of their keys and every storage array in canonical form: no address listed twice and no
byte or tag listed that an unlisted one reads as (R261, R345; the model's own form). -/
def Obligations.CanonicalKept : Prop := ∀ (s t : State), TablesOk s ∧ MemWf s → step s = .next t → TablesOk t ∧ MemWf t

/-- R23, R261, R263, R264, R296, R345: right after reset the invariants hold, the firmware is awaited and no thread may run, no
tenant is open, partition 0 is, every line and unit carries the empty tag and reads as zero to every partition, and raw-access mode
is off and not locked. The model's choices and readings in it: notes/assumptions 3, 6, 7, 8. -/
def Obligations.ResetState : Prop :=
  let s := State.reset
  RawLocked s ∧ TablesOk s ∧ MemWf s ∧ s.firmware = .awaiting ∧ s.rawLocked = false ∧ (∀ tid, mayRun s tid = false) ∧
    (s.part 0).isOpen = true ∧ (∀ p, p ≠ 0 → s.part p = {}) ∧ s.cycle = 0 ∧ s.slot = 0 ∧ s.writes = [] ∧
    (∀ d, s.die d = {}) ∧ (∀ c, s.core c = {}) ∧
    s.tenantRan = false ∧ s.transit = [] ∧
    ∀ w st a, w.raw = false → (∀ d, st ≠ .dev d) → readByte s w st a = 0 ∧ (memOf s st).tag (unitOf st a) = Config.emptyTag
end

