-- ==== Sys2Proof/Laws/Tables.lean ====
section
/-! SUPPORT. Laws of the sparse tables: what is read after a write, and that rising keys stay rising. -/

namespace Sys2Proof.Machine

open Sys2Proof

theorem tfind_tset_self {α : Type} (t : Tab α) (n : Nat) (x : α) : tfind (tset t n x) n = some x := by
  induction t with
  | nil => simp [tset, tfind]
  | cons e l ih =>
    obtain ⟨k, v⟩ := e
    simp only [tset]
    split
    · next h => simp [tfind, h]
    · split
      · simp [tfind]
      · next h1 h2 => simp [tfind, h1, h2, ih]

theorem tfind_tset_ne {α : Type} (t : Tab α) {n m : Nat} (x : α) (h : m ≠ n) : tfind (tset t n x) m = tfind t m := by
  induction t with
  | nil => simp [tset, tfind, h]
  | cons e l ih =>
    obtain ⟨k, v⟩ := e
    simp only [tset]
    split
    · next hk => subst hk; simp [tfind, h]
    · split
      · next hk hlt =>
        simp only [tfind, h, if_false]
        split
        · next hm =>
          have h1 : m ≠ k := by omega
          have h2 : m < k := by omega
          simp [h1, h2]
        · rfl
      · simp only [tfind, ih]

@[simp] theorem tget_tset_self {α : Type} (t : Tab α) (n : Nat) (x d : α) : tget (tset t n x) n d = x := by
  simp [tget, tfind_tset_self]

theorem tget_tset_ne {α : Type} (t : Tab α) {n m : Nat} (x d : α) (h : m ≠ n) : tget (tset t n x) m d = tget t m d := by
  simp [tget, tfind_tset_ne t x h]

/-- A listed key of a table with rising keys is not below the first. -/
theorem tsorted_head_le {α : Type} {k : Nat} {v : α} {l : Tab α} (h : tsorted ((k, v) :: l) = true) :
    ∀ e ∈ l, k < e.1 := by
  induction l generalizing k v with
  | nil => simp
  | cons e l ih =>
    obtain ⟨k', v'⟩ := e
    simp only [tsorted, Bool.and_eq_true, decide_eq_true_eq] at h
    intro e he
    rcases List.mem_cons.mp he with rfl | he
    · exact h.1
    · exact Nat.lt_trans h.1 (ih h.2 e he)

theorem tsorted_tail {α : Type} {e : Nat × α} {l : Tab α} (h : tsorted (e :: l) = true) : tsorted l = true := by
  cases l with
  | nil => rfl
  | cons e' l => obtain ⟨k, v⟩ := e; obtain ⟨k', v'⟩ := e'; simp [tsorted] at h; exact h.2

theorem tsorted_cons {α : Type} {k : Nat} {v : α} {l : Tab α} (h : tsorted l = true) (hk : ∀ e ∈ l, k < e.1) :
    tsorted ((k, v) :: l) = true := by
  cases l with
  | nil => rfl
  | cons e l =>
    obtain ⟨k', v'⟩ := e
    simp only [tsorted, Bool.and_eq_true, decide_eq_true_eq]
    exact ⟨hk (k', v') (List.mem_cons_self ..), h⟩

/-- What a table lists after an entry is written. -/
theorem mem_tset {α : Type} {t : Tab α} {n : Nat} {x : α} {e : Nat × α} (h : e ∈ tset t n x) :
    e = (n, x) ∨ e ∈ t := by
  induction t with
  | nil => simp [tset] at h; exact .inl h
  | cons a l ih =>
    obtain ⟨k, v⟩ := a
    simp only [tset] at h
    split at h
    · next hk =>
      rcases List.mem_cons.mp h with rfl | h
      · exact .inl (by rw [hk])
      · exact .inr (List.mem_cons_of_mem _ h)
    · split at h
      · rcases List.mem_cons.mp h with rfl | h
        · exact .inl rfl
        · exact .inr h
      · rcases List.mem_cons.mp h with rfl | h
        · exact .inr (List.mem_cons_self ..)
        · exact (ih h).imp_right (List.mem_cons_of_mem _)

theorem mem_terase {α : Type} {t : Tab α} {n : Nat} {e : Nat × α} (h : e ∈ terase t n) : e ∈ t := by
  induction t with
  | nil => simp [terase] at h
  | cons a l ih =>
    obtain ⟨k, v⟩ := a
    simp only [terase] at h
    split at h
    · exact List.mem_cons_of_mem _ h
    · split at h
      · exact h
      · rcases List.mem_cons.mp h with rfl | h
        · exact List.mem_cons_self ..
        · exact List.mem_cons_of_mem _ (ih h)

/-- What a table lists after `tput`: the entry written, unless it is the default, or what it listed. -/
theorem mem_tput {α : Type} [DecidableEq α] {d : α} {t : Tab α} {n : Nat} {x : α} {e : Nat × α}
    (h : e ∈ tput d t n x) : (e = (n, x) ∧ x ≠ d) ∨ e ∈ t := by
  unfold tput at h
  split at h
  · exact .inr (mem_terase h)
  · next hx => exact (mem_tset h).imp_left fun he => ⟨he, hx⟩

theorem tsorted_tset {α : Type} (t : Tab α) (n : Nat) (x : α) (h : tsorted t = true) : tsorted (tset t n x) = true := by
  induction t with
  | nil => rfl
  | cons a l ih =>
    obtain ⟨k, v⟩ := a
    have hl := tsorted_tail h
    have hk := tsorted_head_le h
    simp only [tset]
    split
    · exact tsorted_cons hl hk
    · split
      · next hlt =>
        refine tsorted_cons h fun e he => ?_
        rcases List.mem_cons.mp he with rfl | he
        · exact hlt
        · exact Nat.lt_trans hlt (hk e he)
      · next hne hge =>
        refine tsorted_cons (ih hl) fun e he => ?_
        rcases mem_tset he with rfl | he
        · simp only; omega
        · exact hk e he

theorem tsorted_terase {α : Type} (t : Tab α) (n : Nat) (h : tsorted t = true) : tsorted (terase t n) = true := by
  induction t with
  | nil => rfl
  | cons a l ih =>
    obtain ⟨k, v⟩ := a
    have hl := tsorted_tail h
    have hk := tsorted_head_le h
    simp only [terase]
    split
    · exact hl
    · split
      · exact h
      · exact tsorted_cons (ih hl) fun e he => hk e (mem_terase he)

theorem tsorted_tput {α : Type} [DecidableEq α] (d : α) (t : Tab α) (n : Nat) (x : α) (h : tsorted t = true) :
    tsorted (tput d t n x) = true := by
  unfold tput
  split
  · exact tsorted_terase t n h
  · exact tsorted_tset t n x h

/-- A key below every listed one is not listed. -/
theorem tfind_none_of_lt {α : Type} {t : Tab α} {n : Nat} (h : ∀ e ∈ t, n < e.1) : tfind t n = none := by
  cases t with
  | nil => rfl
  | cons a l =>
    obtain ⟨k, v⟩ := a
    have hk : n < k := h (k, v) (List.mem_cons_self ..)
    have : n ≠ k := by omega
    simp [tfind, this, hk]

theorem tfind_terase_self {α : Type} (t : Tab α) (n : Nat) (h : tsorted t = true) : tfind (terase t n) n = none := by
  induction t with
  | nil => rfl
  | cons a l ih =>
    obtain ⟨k, v⟩ := a
    simp only [terase]
    split
    · next hn => subst hn; exact tfind_none_of_lt (tsorted_head_le h)
    · split
      · next h1 h2 => simp [tfind, h1, h2]
      · next h1 h2 => simp [tfind, h1, h2, ih (tsorted_tail h)]

theorem tfind_terase_ne {α : Type} (t : Tab α) {n m : Nat} (hm : m ≠ n) (h : tsorted t = true) :
    tfind (terase t n) m = tfind t m := by
  induction t with
  | nil => rfl
  | cons a l ih =>
    obtain ⟨k, v⟩ := a
    simp only [terase]
    split
    · next hn =>
      subst hn
      simp only [tfind, hm, if_false]
      split
      · next hlt => exact tfind_none_of_lt fun e he => Nat.lt_trans hlt (tsorted_head_le h e he)
      · rfl
    · split
      · rfl
      · simp only [tfind, ih (tsorted_tail h)]

/-- The entry written is the entry read, in a table with rising keys. -/
theorem tget_tput_self {α : Type} [DecidableEq α] (d : α) (t : Tab α) (n : Nat) (x : α) (h : tsorted t = true) :
    tget (tput d t n x) n d = x := by
  unfold tput
  split
  · next hx => simp [tget, tfind_terase_self t n h, hx]
  · exact tget_tset_self t n x d

/-- The same in any table for an entry that is not the default. -/
theorem tget_tput_of_ne {α : Type} [DecidableEq α] (d : α) (t : Tab α) (n : Nat) {x : α} (h : x ≠ d) :
    tget (tput d t n x) n d = x := by
  simp [tput, h]

theorem tget_tput_ne {α : Type} [DecidableEq α] (d : α) (t : Tab α) {n m : Nat} (x : α) (hm : m ≠ n)
    (h : tsorted t = true) : tget (tput d t n x) m d = tget t m d := by
  unfold tput
  split
  · simp [tget, tfind_terase_ne t hm h]
  · exact tget_tset_ne t x d hm

/-- An entry read is listed or the default. -/
theorem tget_mem {α : Type} (t : Tab α) (n : Nat) (d : α) : (n, tget t n d) ∈ t ∨ tget t n d = d := by
  unfold tget
  induction t with
  | nil => exact .inr rfl
  | cons a l ih =>
    obtain ⟨k, v⟩ := a
    simp only [tfind]
    split
    · next h => exact .inl (by simp [h])
    · split
      · exact .inr rfl
      · exact ih.imp_left (List.mem_cons_of_mem _)

end Sys2Proof.Machine
end

