-- ==== Sys2Proof/Laws/State.lean ====
section
/-! SUPPORT. Laws of the state's updates: one lemma for each field under each update, true by unfolding, and what is read
after a write. -/

namespace Sys2Proof.Machine

open Sys2Proof

/-! ## `setThread` -/

@[simp] theorem State.setThread_agenda (s : State) (n : Nat) (x : Thread) : (s.setThread n x).agenda = s.agenda := rfl
@[simp] theorem State.setThread_cur (s : State) (n : Nat) (x : Thread) : (s.setThread n x).cur = s.cur := rfl
@[simp] theorem State.setThread_fresh (s : State) (n : Nat) (x : Thread) : (s.setThread n x).fresh = s.fresh := rfl
@[simp] theorem State.setThread_cycle (s : State) (n : Nat) (x : Thread) : (s.setThread n x).cycle = s.cycle := rfl
@[simp] theorem State.setThread_slot (s : State) (n : Nat) (x : Thread) : (s.setThread n x).slot = s.slot := rfl
@[simp] theorem State.setThread_lastSource (s : State) (n : Nat) (x : Thread) : (s.setThread n x).lastSource = s.lastSource := rfl
@[simp] theorem State.setThread_firmware (s : State) (n : Nat) (x : Thread) : (s.setThread n x).firmware = s.firmware := rfl
@[simp] theorem State.setThread_fwImage (s : State) (n : Nat) (x : Thread) : (s.setThread n x).fwImage = s.fwImage := rfl
@[simp] theorem State.setThread_pkgNum (s : State) (n : Nat) (x : Thread) : (s.setThread n x).pkgNum = s.pkgNum := rfl
@[simp] theorem State.setThread_pkgSet (s : State) (n : Nat) (x : Thread) : (s.setThread n x).pkgSet = s.pkgSet := rfl
@[simp] theorem State.setThread_regulator (s : State) (n : Nat) (x : Thread) : (s.setThread n x).regulator = s.regulator := rfl
@[simp] theorem State.setThread_boots (s : State) (n : Nat) (x : Thread) : (s.setThread n x).boots = s.boots := rfl
@[simp] theorem State.setThread_hssSigned (s : State) (n : Nat) (x : Thread) : (s.setThread n x).hssSigned = s.hssSigned := rfl
@[simp] theorem State.setThread_rawLocked (s : State) (n : Nat) (x : Thread) : (s.setThread n x).rawLocked = s.rawLocked := rfl
@[simp] theorem State.setThread_rawEntered (s : State) (n : Nat) (x : Thread) : (s.setThread n x).rawEntered = s.rawEntered := rfl
@[simp] theorem State.setThread_clockMhz (s : State) (n : Nat) (x : Thread) : (s.setThread n x).clockMhz = s.clockMhz := rfl
@[simp] theorem State.setThread_laneTags (s : State) (n : Nat) (x : Thread) : (s.setThread n x).laneTags = s.laneTags := rfl
@[simp] theorem State.setThread_parts (s : State) (n : Nat) (x : Thread) : (s.setThread n x).parts = s.parts := rfl
@[simp] theorem State.setThread_groups (s : State) (n : Nat) (x : Thread) : (s.setThread n x).groups = s.groups := rfl
@[simp] theorem State.setThread_cores (s : State) (n : Nat) (x : Thread) : (s.setThread n x).cores = s.cores := rfl
@[simp] theorem State.setThread_threads (s : State) (n : Nat) (x : Thread) : (s.setThread n x).threads = tput {} s.threads n x := rfl
@[simp] theorem State.setThread_dies (s : State) (n : Nat) (x : Thread) : (s.setThread n x).dies = s.dies := rfl
@[simp] theorem State.setThread_writes (s : State) (n : Nat) (x : Thread) : (s.setThread n x).writes = s.writes := rfl
@[simp] theorem State.setThread_applied (s : State) (n : Nat) (x : Thread) : (s.setThread n x).applied = s.applied := rfl
@[simp] theorem State.setThread_counted (s : State) (n : Nat) (x : Thread) : (s.setThread n x).counted = s.counted := rfl
@[simp] theorem State.setThread_pageModes (s : State) (n : Nat) (x : Thread) : (s.setThread n x).pageModes = s.pageModes := rfl
@[simp] theorem State.setThread_ptVersions (s : State) (n : Nat) (x : Thread) : (s.setThread n x).ptVersions = s.ptVersions := rfl
@[simp] theorem State.setThread_owners (s : State) (n : Nat) (x : Thread) : (s.setThread n x).owners = s.owners := rfl
@[simp] theorem State.setThread_sweeps (s : State) (n : Nat) (x : Thread) : (s.setThread n x).sweeps = s.sweeps := rfl
@[simp] theorem State.setThread_lateAmos (s : State) (n : Nat) (x : Thread) : (s.setThread n x).lateAmos = s.lateAmos := rfl
@[simp] theorem State.setThread_replicas (s : State) (n : Nat) (x : Thread) : (s.setThread n x).replicas = s.replicas := rfl
@[simp] theorem State.setThread_images (s : State) (n : Nat) (x : Thread) : (s.setThread n x).images = s.images := rfl
@[simp] theorem State.setThread_cuts (s : State) (n : Nat) (x : Thread) : (s.setThread n x).cuts = s.cuts := rfl
@[simp] theorem State.setThread_issues (s : State) (n : Nat) (x : Thread) : (s.setThread n x).issues = s.issues := rfl
@[simp] theorem State.setThread_transit (s : State) (n : Nat) (x : Thread) : (s.setThread n x).transit = s.transit := rfl
@[simp] theorem State.setThread_tenantRan (s : State) (n : Nat) (x : Thread) : (s.setThread n x).tenantRan = s.tenantRan := rfl
@[simp] theorem State.setThread_out (s : State) (n : Nat) (x : Thread) : (s.setThread n x).out = s.out := rfl
@[simp] theorem State.core_setThread (s : State) (n m : Nat) (x : Thread) : (s.setThread n x).core m = s.core m := rfl
@[simp] theorem State.group_setThread (s : State) (n m : Nat) (x : Thread) : (s.setThread n x).group m = s.group m := rfl
@[simp] theorem State.part_setThread (s : State) (n m : Nat) (x : Thread) : (s.setThread n x).part m = s.part m := rfl
@[simp] theorem State.die_setThread (s : State) (n m : Nat) (x : Thread) : (s.setThread n x).die m = s.die m := rfl
theorem State.thread_setThread_self (s : State) (n : Nat) (x : Thread) (h : tsorted s.threads = true) : (s.setThread n x).thread n = x :=
  tget_tput_self _ _ _ _ h
theorem State.thread_setThread_of_ne (s : State) (n : Nat) {x : Thread} (h : x ≠ {}) : (s.setThread n x).thread n = x :=
  tget_tput_of_ne _ _ _ h
theorem State.thread_setThread_ne (s : State) {n m : Nat} (x : Thread) (hm : m ≠ n) (h : tsorted s.threads = true) :
    (s.setThread n x).thread m = s.thread m := tget_tput_ne _ _ _ hm h

/-! ## `setCore` -/

@[simp] theorem State.setCore_agenda (s : State) (n : Nat) (x : Core) : (s.setCore n x).agenda = s.agenda := rfl
@[simp] theorem State.setCore_cur (s : State) (n : Nat) (x : Core) : (s.setCore n x).cur = s.cur := rfl
@[simp] theorem State.setCore_fresh (s : State) (n : Nat) (x : Core) : (s.setCore n x).fresh = s.fresh := rfl
@[simp] theorem State.setCore_cycle (s : State) (n : Nat) (x : Core) : (s.setCore n x).cycle = s.cycle := rfl
@[simp] theorem State.setCore_slot (s : State) (n : Nat) (x : Core) : (s.setCore n x).slot = s.slot := rfl
@[simp] theorem State.setCore_lastSource (s : State) (n : Nat) (x : Core) : (s.setCore n x).lastSource = s.lastSource := rfl
@[simp] theorem State.setCore_firmware (s : State) (n : Nat) (x : Core) : (s.setCore n x).firmware = s.firmware := rfl
@[simp] theorem State.setCore_fwImage (s : State) (n : Nat) (x : Core) : (s.setCore n x).fwImage = s.fwImage := rfl
@[simp] theorem State.setCore_pkgNum (s : State) (n : Nat) (x : Core) : (s.setCore n x).pkgNum = s.pkgNum := rfl
@[simp] theorem State.setCore_pkgSet (s : State) (n : Nat) (x : Core) : (s.setCore n x).pkgSet = s.pkgSet := rfl
@[simp] theorem State.setCore_regulator (s : State) (n : Nat) (x : Core) : (s.setCore n x).regulator = s.regulator := rfl
@[simp] theorem State.setCore_boots (s : State) (n : Nat) (x : Core) : (s.setCore n x).boots = s.boots := rfl
@[simp] theorem State.setCore_hssSigned (s : State) (n : Nat) (x : Core) : (s.setCore n x).hssSigned = s.hssSigned := rfl
@[simp] theorem State.setCore_rawLocked (s : State) (n : Nat) (x : Core) : (s.setCore n x).rawLocked = s.rawLocked := rfl
@[simp] theorem State.setCore_rawEntered (s : State) (n : Nat) (x : Core) : (s.setCore n x).rawEntered = s.rawEntered := rfl
@[simp] theorem State.setCore_clockMhz (s : State) (n : Nat) (x : Core) : (s.setCore n x).clockMhz = s.clockMhz := rfl
@[simp] theorem State.setCore_laneTags (s : State) (n : Nat) (x : Core) : (s.setCore n x).laneTags = s.laneTags := rfl
@[simp] theorem State.setCore_parts (s : State) (n : Nat) (x : Core) : (s.setCore n x).parts = s.parts := rfl
@[simp] theorem State.setCore_groups (s : State) (n : Nat) (x : Core) : (s.setCore n x).groups = s.groups := rfl
@[simp] theorem State.setCore_cores (s : State) (n : Nat) (x : Core) : (s.setCore n x).cores = tput {} s.cores n x := rfl
@[simp] theorem State.setCore_threads (s : State) (n : Nat) (x : Core) : (s.setCore n x).threads = s.threads := rfl
@[simp] theorem State.setCore_dies (s : State) (n : Nat) (x : Core) : (s.setCore n x).dies = s.dies := rfl
@[simp] theorem State.setCore_writes (s : State) (n : Nat) (x : Core) : (s.setCore n x).writes = s.writes := rfl
@[simp] theorem State.setCore_applied (s : State) (n : Nat) (x : Core) : (s.setCore n x).applied = s.applied := rfl
@[simp] theorem State.setCore_counted (s : State) (n : Nat) (x : Core) : (s.setCore n x).counted = s.counted := rfl
@[simp] theorem State.setCore_pageModes (s : State) (n : Nat) (x : Core) : (s.setCore n x).pageModes = s.pageModes := rfl
@[simp] theorem State.setCore_ptVersions (s : State) (n : Nat) (x : Core) : (s.setCore n x).ptVersions = s.ptVersions := rfl
@[simp] theorem State.setCore_owners (s : State) (n : Nat) (x : Core) : (s.setCore n x).owners = s.owners := rfl
@[simp] theorem State.setCore_sweeps (s : State) (n : Nat) (x : Core) : (s.setCore n x).sweeps = s.sweeps := rfl
@[simp] theorem State.setCore_lateAmos (s : State) (n : Nat) (x : Core) : (s.setCore n x).lateAmos = s.lateAmos := rfl
@[simp] theorem State.setCore_replicas (s : State) (n : Nat) (x : Core) : (s.setCore n x).replicas = s.replicas := rfl
@[simp] theorem State.setCore_images (s : State) (n : Nat) (x : Core) : (s.setCore n x).images = s.images := rfl
@[simp] theorem State.setCore_cuts (s : State) (n : Nat) (x : Core) : (s.setCore n x).cuts = s.cuts := rfl
@[simp] theorem State.setCore_issues (s : State) (n : Nat) (x : Core) : (s.setCore n x).issues = s.issues := rfl
@[simp] theorem State.setCore_transit (s : State) (n : Nat) (x : Core) : (s.setCore n x).transit = s.transit := rfl
@[simp] theorem State.setCore_tenantRan (s : State) (n : Nat) (x : Core) : (s.setCore n x).tenantRan = s.tenantRan := rfl
@[simp] theorem State.setCore_out (s : State) (n : Nat) (x : Core) : (s.setCore n x).out = s.out := rfl
@[simp] theorem State.thread_setCore (s : State) (n m : Nat) (x : Core) : (s.setCore n x).thread m = s.thread m := rfl
@[simp] theorem State.group_setCore (s : State) (n m : Nat) (x : Core) : (s.setCore n x).group m = s.group m := rfl
@[simp] theorem State.part_setCore (s : State) (n m : Nat) (x : Core) : (s.setCore n x).part m = s.part m := rfl
@[simp] theorem State.die_setCore (s : State) (n m : Nat) (x : Core) : (s.setCore n x).die m = s.die m := rfl
theorem State.core_setCore_self (s : State) (n : Nat) (x : Core) (h : tsorted s.cores = true) : (s.setCore n x).core n = x :=
  tget_tput_self _ _ _ _ h
theorem State.core_setCore_of_ne (s : State) (n : Nat) {x : Core} (h : x ≠ {}) : (s.setCore n x).core n = x :=
  tget_tput_of_ne _ _ _ h
theorem State.core_setCore_ne (s : State) {n m : Nat} (x : Core) (hm : m ≠ n) (h : tsorted s.cores = true) :
    (s.setCore n x).core m = s.core m := tget_tput_ne _ _ _ hm h

/-! ## `setGroup` -/

@[simp] theorem State.setGroup_agenda (s : State) (n : Nat) (x : Group) : (s.setGroup n x).agenda = s.agenda := rfl
@[simp] theorem State.setGroup_cur (s : State) (n : Nat) (x : Group) : (s.setGroup n x).cur = s.cur := rfl
@[simp] theorem State.setGroup_fresh (s : State) (n : Nat) (x : Group) : (s.setGroup n x).fresh = s.fresh := rfl
@[simp] theorem State.setGroup_cycle (s : State) (n : Nat) (x : Group) : (s.setGroup n x).cycle = s.cycle := rfl
@[simp] theorem State.setGroup_slot (s : State) (n : Nat) (x : Group) : (s.setGroup n x).slot = s.slot := rfl
@[simp] theorem State.setGroup_lastSource (s : State) (n : Nat) (x : Group) : (s.setGroup n x).lastSource = s.lastSource := rfl
@[simp] theorem State.setGroup_firmware (s : State) (n : Nat) (x : Group) : (s.setGroup n x).firmware = s.firmware := rfl
@[simp] theorem State.setGroup_fwImage (s : State) (n : Nat) (x : Group) : (s.setGroup n x).fwImage = s.fwImage := rfl
@[simp] theorem State.setGroup_pkgNum (s : State) (n : Nat) (x : Group) : (s.setGroup n x).pkgNum = s.pkgNum := rfl
@[simp] theorem State.setGroup_pkgSet (s : State) (n : Nat) (x : Group) : (s.setGroup n x).pkgSet = s.pkgSet := rfl
@[simp] theorem State.setGroup_regulator (s : State) (n : Nat) (x : Group) : (s.setGroup n x).regulator = s.regulator := rfl
@[simp] theorem State.setGroup_boots (s : State) (n : Nat) (x : Group) : (s.setGroup n x).boots = s.boots := rfl
@[simp] theorem State.setGroup_hssSigned (s : State) (n : Nat) (x : Group) : (s.setGroup n x).hssSigned = s.hssSigned := rfl
@[simp] theorem State.setGroup_rawLocked (s : State) (n : Nat) (x : Group) : (s.setGroup n x).rawLocked = s.rawLocked := rfl
@[simp] theorem State.setGroup_rawEntered (s : State) (n : Nat) (x : Group) : (s.setGroup n x).rawEntered = s.rawEntered := rfl
@[simp] theorem State.setGroup_clockMhz (s : State) (n : Nat) (x : Group) : (s.setGroup n x).clockMhz = s.clockMhz := rfl
@[simp] theorem State.setGroup_laneTags (s : State) (n : Nat) (x : Group) : (s.setGroup n x).laneTags = s.laneTags := rfl
@[simp] theorem State.setGroup_parts (s : State) (n : Nat) (x : Group) : (s.setGroup n x).parts = s.parts := rfl
@[simp] theorem State.setGroup_groups (s : State) (n : Nat) (x : Group) : (s.setGroup n x).groups = tput {} s.groups n x := rfl
@[simp] theorem State.setGroup_cores (s : State) (n : Nat) (x : Group) : (s.setGroup n x).cores = s.cores := rfl
@[simp] theorem State.setGroup_threads (s : State) (n : Nat) (x : Group) : (s.setGroup n x).threads = s.threads := rfl
@[simp] theorem State.setGroup_dies (s : State) (n : Nat) (x : Group) : (s.setGroup n x).dies = s.dies := rfl
@[simp] theorem State.setGroup_writes (s : State) (n : Nat) (x : Group) : (s.setGroup n x).writes = s.writes := rfl
@[simp] theorem State.setGroup_applied (s : State) (n : Nat) (x : Group) : (s.setGroup n x).applied = s.applied := rfl
@[simp] theorem State.setGroup_counted (s : State) (n : Nat) (x : Group) : (s.setGroup n x).counted = s.counted := rfl
@[simp] theorem State.setGroup_pageModes (s : State) (n : Nat) (x : Group) : (s.setGroup n x).pageModes = s.pageModes := rfl
@[simp] theorem State.setGroup_ptVersions (s : State) (n : Nat) (x : Group) : (s.setGroup n x).ptVersions = s.ptVersions := rfl
@[simp] theorem State.setGroup_owners (s : State) (n : Nat) (x : Group) : (s.setGroup n x).owners = s.owners := rfl
@[simp] theorem State.setGroup_sweeps (s : State) (n : Nat) (x : Group) : (s.setGroup n x).sweeps = s.sweeps := rfl
@[simp] theorem State.setGroup_lateAmos (s : State) (n : Nat) (x : Group) : (s.setGroup n x).lateAmos = s.lateAmos := rfl
@[simp] theorem State.setGroup_replicas (s : State) (n : Nat) (x : Group) : (s.setGroup n x).replicas = s.replicas := rfl
@[simp] theorem State.setGroup_images (s : State) (n : Nat) (x : Group) : (s.setGroup n x).images = s.images := rfl
@[simp] theorem State.setGroup_cuts (s : State) (n : Nat) (x : Group) : (s.setGroup n x).cuts = s.cuts := rfl
@[simp] theorem State.setGroup_issues (s : State) (n : Nat) (x : Group) : (s.setGroup n x).issues = s.issues := rfl
@[simp] theorem State.setGroup_transit (s : State) (n : Nat) (x : Group) : (s.setGroup n x).transit = s.transit := rfl
@[simp] theorem State.setGroup_tenantRan (s : State) (n : Nat) (x : Group) : (s.setGroup n x).tenantRan = s.tenantRan := rfl
@[simp] theorem State.setGroup_out (s : State) (n : Nat) (x : Group) : (s.setGroup n x).out = s.out := rfl
@[simp] theorem State.thread_setGroup (s : State) (n m : Nat) (x : Group) : (s.setGroup n x).thread m = s.thread m := rfl
@[simp] theorem State.core_setGroup (s : State) (n m : Nat) (x : Group) : (s.setGroup n x).core m = s.core m := rfl
@[simp] theorem State.part_setGroup (s : State) (n m : Nat) (x : Group) : (s.setGroup n x).part m = s.part m := rfl
@[simp] theorem State.die_setGroup (s : State) (n m : Nat) (x : Group) : (s.setGroup n x).die m = s.die m := rfl
theorem State.group_setGroup_self (s : State) (n : Nat) (x : Group) (h : tsorted s.groups = true) : (s.setGroup n x).group n = x :=
  tget_tput_self _ _ _ _ h
theorem State.group_setGroup_of_ne (s : State) (n : Nat) {x : Group} (h : x ≠ {}) : (s.setGroup n x).group n = x :=
  tget_tput_of_ne _ _ _ h
theorem State.group_setGroup_ne (s : State) {n m : Nat} (x : Group) (hm : m ≠ n) (h : tsorted s.groups = true) :
    (s.setGroup n x).group m = s.group m := tget_tput_ne _ _ _ hm h

/-! ## `setPart` -/

@[simp] theorem State.setPart_agenda (s : State) (n : Nat) (x : Part) : (s.setPart n x).agenda = s.agenda := rfl
@[simp] theorem State.setPart_cur (s : State) (n : Nat) (x : Part) : (s.setPart n x).cur = s.cur := rfl
@[simp] theorem State.setPart_fresh (s : State) (n : Nat) (x : Part) : (s.setPart n x).fresh = s.fresh := rfl
@[simp] theorem State.setPart_cycle (s : State) (n : Nat) (x : Part) : (s.setPart n x).cycle = s.cycle := rfl
@[simp] theorem State.setPart_slot (s : State) (n : Nat) (x : Part) : (s.setPart n x).slot = s.slot := rfl
@[simp] theorem State.setPart_lastSource (s : State) (n : Nat) (x : Part) : (s.setPart n x).lastSource = s.lastSource := rfl
@[simp] theorem State.setPart_firmware (s : State) (n : Nat) (x : Part) : (s.setPart n x).firmware = s.firmware := rfl
@[simp] theorem State.setPart_fwImage (s : State) (n : Nat) (x : Part) : (s.setPart n x).fwImage = s.fwImage := rfl
@[simp] theorem State.setPart_pkgNum (s : State) (n : Nat) (x : Part) : (s.setPart n x).pkgNum = s.pkgNum := rfl
@[simp] theorem State.setPart_pkgSet (s : State) (n : Nat) (x : Part) : (s.setPart n x).pkgSet = s.pkgSet := rfl
@[simp] theorem State.setPart_regulator (s : State) (n : Nat) (x : Part) : (s.setPart n x).regulator = s.regulator := rfl
@[simp] theorem State.setPart_boots (s : State) (n : Nat) (x : Part) : (s.setPart n x).boots = s.boots := rfl
@[simp] theorem State.setPart_hssSigned (s : State) (n : Nat) (x : Part) : (s.setPart n x).hssSigned = s.hssSigned := rfl
@[simp] theorem State.setPart_rawLocked (s : State) (n : Nat) (x : Part) : (s.setPart n x).rawLocked = s.rawLocked := rfl
@[simp] theorem State.setPart_rawEntered (s : State) (n : Nat) (x : Part) : (s.setPart n x).rawEntered = s.rawEntered := rfl
@[simp] theorem State.setPart_clockMhz (s : State) (n : Nat) (x : Part) : (s.setPart n x).clockMhz = s.clockMhz := rfl
@[simp] theorem State.setPart_laneTags (s : State) (n : Nat) (x : Part) : (s.setPart n x).laneTags = s.laneTags := rfl
@[simp] theorem State.setPart_parts (s : State) (n : Nat) (x : Part) : (s.setPart n x).parts = tput {} s.parts n x := rfl
@[simp] theorem State.setPart_groups (s : State) (n : Nat) (x : Part) : (s.setPart n x).groups = s.groups := rfl
@[simp] theorem State.setPart_cores (s : State) (n : Nat) (x : Part) : (s.setPart n x).cores = s.cores := rfl
@[simp] theorem State.setPart_threads (s : State) (n : Nat) (x : Part) : (s.setPart n x).threads = s.threads := rfl
@[simp] theorem State.setPart_dies (s : State) (n : Nat) (x : Part) : (s.setPart n x).dies = s.dies := rfl
@[simp] theorem State.setPart_writes (s : State) (n : Nat) (x : Part) : (s.setPart n x).writes = s.writes := rfl
@[simp] theorem State.setPart_applied (s : State) (n : Nat) (x : Part) : (s.setPart n x).applied = s.applied := rfl
@[simp] theorem State.setPart_counted (s : State) (n : Nat) (x : Part) : (s.setPart n x).counted = s.counted := rfl
@[simp] theorem State.setPart_pageModes (s : State) (n : Nat) (x : Part) : (s.setPart n x).pageModes = s.pageModes := rfl
@[simp] theorem State.setPart_ptVersions (s : State) (n : Nat) (x : Part) : (s.setPart n x).ptVersions = s.ptVersions := rfl
@[simp] theorem State.setPart_owners (s : State) (n : Nat) (x : Part) : (s.setPart n x).owners = s.owners := rfl
@[simp] theorem State.setPart_sweeps (s : State) (n : Nat) (x : Part) : (s.setPart n x).sweeps = s.sweeps := rfl
@[simp] theorem State.setPart_lateAmos (s : State) (n : Nat) (x : Part) : (s.setPart n x).lateAmos = s.lateAmos := rfl
@[simp] theorem State.setPart_replicas (s : State) (n : Nat) (x : Part) : (s.setPart n x).replicas = s.replicas := rfl
@[simp] theorem State.setPart_images (s : State) (n : Nat) (x : Part) : (s.setPart n x).images = s.images := rfl
@[simp] theorem State.setPart_cuts (s : State) (n : Nat) (x : Part) : (s.setPart n x).cuts = s.cuts := rfl
@[simp] theorem State.setPart_issues (s : State) (n : Nat) (x : Part) : (s.setPart n x).issues = s.issues := rfl
@[simp] theorem State.setPart_transit (s : State) (n : Nat) (x : Part) : (s.setPart n x).transit = s.transit := rfl
@[simp] theorem State.setPart_tenantRan (s : State) (n : Nat) (x : Part) : (s.setPart n x).tenantRan = s.tenantRan := rfl
@[simp] theorem State.setPart_out (s : State) (n : Nat) (x : Part) : (s.setPart n x).out = s.out := rfl
@[simp] theorem State.thread_setPart (s : State) (n m : Nat) (x : Part) : (s.setPart n x).thread m = s.thread m := rfl
@[simp] theorem State.core_setPart (s : State) (n m : Nat) (x : Part) : (s.setPart n x).core m = s.core m := rfl
@[simp] theorem State.group_setPart (s : State) (n m : Nat) (x : Part) : (s.setPart n x).group m = s.group m := rfl
@[simp] theorem State.die_setPart (s : State) (n m : Nat) (x : Part) : (s.setPart n x).die m = s.die m := rfl
theorem State.part_setPart_self (s : State) (n : Nat) (x : Part) (h : tsorted s.parts = true) : (s.setPart n x).part n = x :=
  tget_tput_self _ _ _ _ h
theorem State.part_setPart_of_ne (s : State) (n : Nat) {x : Part} (h : x ≠ {}) : (s.setPart n x).part n = x :=
  tget_tput_of_ne _ _ _ h
theorem State.part_setPart_ne (s : State) {n m : Nat} (x : Part) (hm : m ≠ n) (h : tsorted s.parts = true) :
    (s.setPart n x).part m = s.part m := tget_tput_ne _ _ _ hm h

/-! ## `setDie` -/

@[simp] theorem State.setDie_agenda (s : State) (n : Nat) (x : Die) : (s.setDie n x).agenda = s.agenda := rfl
@[simp] theorem State.setDie_cur (s : State) (n : Nat) (x : Die) : (s.setDie n x).cur = s.cur := rfl
@[simp] theorem State.setDie_fresh (s : State) (n : Nat) (x : Die) : (s.setDie n x).fresh = s.fresh := rfl
@[simp] theorem State.setDie_cycle (s : State) (n : Nat) (x : Die) : (s.setDie n x).cycle = s.cycle := rfl
@[simp] theorem State.setDie_slot (s : State) (n : Nat) (x : Die) : (s.setDie n x).slot = s.slot := rfl
@[simp] theorem State.setDie_lastSource (s : State) (n : Nat) (x : Die) : (s.setDie n x).lastSource = s.lastSource := rfl
@[simp] theorem State.setDie_firmware (s : State) (n : Nat) (x : Die) : (s.setDie n x).firmware = s.firmware := rfl
@[simp] theorem State.setDie_fwImage (s : State) (n : Nat) (x : Die) : (s.setDie n x).fwImage = s.fwImage := rfl
@[simp] theorem State.setDie_pkgNum (s : State) (n : Nat) (x : Die) : (s.setDie n x).pkgNum = s.pkgNum := rfl
@[simp] theorem State.setDie_pkgSet (s : State) (n : Nat) (x : Die) : (s.setDie n x).pkgSet = s.pkgSet := rfl
@[simp] theorem State.setDie_regulator (s : State) (n : Nat) (x : Die) : (s.setDie n x).regulator = s.regulator := rfl
@[simp] theorem State.setDie_boots (s : State) (n : Nat) (x : Die) : (s.setDie n x).boots = s.boots := rfl
@[simp] theorem State.setDie_hssSigned (s : State) (n : Nat) (x : Die) : (s.setDie n x).hssSigned = s.hssSigned := rfl
@[simp] theorem State.setDie_rawLocked (s : State) (n : Nat) (x : Die) : (s.setDie n x).rawLocked = s.rawLocked := rfl
@[simp] theorem State.setDie_rawEntered (s : State) (n : Nat) (x : Die) : (s.setDie n x).rawEntered = s.rawEntered := rfl
@[simp] theorem State.setDie_clockMhz (s : State) (n : Nat) (x : Die) : (s.setDie n x).clockMhz = s.clockMhz := rfl
@[simp] theorem State.setDie_laneTags (s : State) (n : Nat) (x : Die) : (s.setDie n x).laneTags = s.laneTags := rfl
@[simp] theorem State.setDie_parts (s : State) (n : Nat) (x : Die) : (s.setDie n x).parts = s.parts := rfl
@[simp] theorem State.setDie_groups (s : State) (n : Nat) (x : Die) : (s.setDie n x).groups = s.groups := rfl
@[simp] theorem State.setDie_cores (s : State) (n : Nat) (x : Die) : (s.setDie n x).cores = s.cores := rfl
@[simp] theorem State.setDie_threads (s : State) (n : Nat) (x : Die) : (s.setDie n x).threads = s.threads := rfl
@[simp] theorem State.setDie_dies (s : State) (n : Nat) (x : Die) : (s.setDie n x).dies = tput {} s.dies n x := rfl
@[simp] theorem State.setDie_writes (s : State) (n : Nat) (x : Die) : (s.setDie n x).writes = s.writes := rfl
@[simp] theorem State.setDie_applied (s : State) (n : Nat) (x : Die) : (s.setDie n x).applied = s.applied := rfl
@[simp] theorem State.setDie_counted (s : State) (n : Nat) (x : Die) : (s.setDie n x).counted = s.counted := rfl
@[simp] theorem State.setDie_pageModes (s : State) (n : Nat) (x : Die) : (s.setDie n x).pageModes = s.pageModes := rfl
@[simp] theorem State.setDie_ptVersions (s : State) (n : Nat) (x : Die) : (s.setDie n x).ptVersions = s.ptVersions := rfl
@[simp] theorem State.setDie_owners (s : State) (n : Nat) (x : Die) : (s.setDie n x).owners = s.owners := rfl
@[simp] theorem State.setDie_sweeps (s : State) (n : Nat) (x : Die) : (s.setDie n x).sweeps = s.sweeps := rfl
@[simp] theorem State.setDie_lateAmos (s : State) (n : Nat) (x : Die) : (s.setDie n x).lateAmos = s.lateAmos := rfl
@[simp] theorem State.setDie_replicas (s : State) (n : Nat) (x : Die) : (s.setDie n x).replicas = s.replicas := rfl
@[simp] theorem State.setDie_images (s : State) (n : Nat) (x : Die) : (s.setDie n x).images = s.images := rfl
@[simp] theorem State.setDie_cuts (s : State) (n : Nat) (x : Die) : (s.setDie n x).cuts = s.cuts := rfl
@[simp] theorem State.setDie_issues (s : State) (n : Nat) (x : Die) : (s.setDie n x).issues = s.issues := rfl
@[simp] theorem State.setDie_transit (s : State) (n : Nat) (x : Die) : (s.setDie n x).transit = s.transit := rfl
@[simp] theorem State.setDie_tenantRan (s : State) (n : Nat) (x : Die) : (s.setDie n x).tenantRan = s.tenantRan := rfl
@[simp] theorem State.setDie_out (s : State) (n : Nat) (x : Die) : (s.setDie n x).out = s.out := rfl
@[simp] theorem State.thread_setDie (s : State) (n m : Nat) (x : Die) : (s.setDie n x).thread m = s.thread m := rfl
@[simp] theorem State.core_setDie (s : State) (n m : Nat) (x : Die) : (s.setDie n x).core m = s.core m := rfl
@[simp] theorem State.group_setDie (s : State) (n m : Nat) (x : Die) : (s.setDie n x).group m = s.group m := rfl
@[simp] theorem State.part_setDie (s : State) (n m : Nat) (x : Die) : (s.setDie n x).part m = s.part m := rfl
theorem State.die_setDie_self (s : State) (n : Nat) (x : Die) (h : tsorted s.dies = true) : (s.setDie n x).die n = x :=
  tget_tput_self _ _ _ _ h
theorem State.die_setDie_of_ne (s : State) (n : Nat) {x : Die} (h : x ≠ {}) : (s.setDie n x).die n = x :=
  tget_tput_of_ne _ _ _ h
theorem State.die_setDie_ne (s : State) {n m : Nat} (x : Die) (hm : m ≠ n) (h : tsorted s.dies = true) :
    (s.setDie n x).die m = s.die m := tget_tput_ne _ _ _ hm h

/-! ## `setTh` -/

@[simp] theorem State.setTh_agenda (s : State) (t : Thread) : (s.setTh t).agenda = s.agenda := rfl
@[simp] theorem State.setTh_cur (s : State) (t : Thread) : (s.setTh t).cur = s.cur := rfl
@[simp] theorem State.setTh_fresh (s : State) (t : Thread) : (s.setTh t).fresh = s.fresh := rfl
@[simp] theorem State.setTh_cycle (s : State) (t : Thread) : (s.setTh t).cycle = s.cycle := rfl
@[simp] theorem State.setTh_slot (s : State) (t : Thread) : (s.setTh t).slot = s.slot := rfl
@[simp] theorem State.setTh_lastSource (s : State) (t : Thread) : (s.setTh t).lastSource = s.lastSource := rfl
@[simp] theorem State.setTh_firmware (s : State) (t : Thread) : (s.setTh t).firmware = s.firmware := rfl
@[simp] theorem State.setTh_fwImage (s : State) (t : Thread) : (s.setTh t).fwImage = s.fwImage := rfl
@[simp] theorem State.setTh_pkgNum (s : State) (t : Thread) : (s.setTh t).pkgNum = s.pkgNum := rfl
@[simp] theorem State.setTh_pkgSet (s : State) (t : Thread) : (s.setTh t).pkgSet = s.pkgSet := rfl
@[simp] theorem State.setTh_regulator (s : State) (t : Thread) : (s.setTh t).regulator = s.regulator := rfl
@[simp] theorem State.setTh_boots (s : State) (t : Thread) : (s.setTh t).boots = s.boots := rfl
@[simp] theorem State.setTh_hssSigned (s : State) (t : Thread) : (s.setTh t).hssSigned = s.hssSigned := rfl
@[simp] theorem State.setTh_rawLocked (s : State) (t : Thread) : (s.setTh t).rawLocked = s.rawLocked := rfl
@[simp] theorem State.setTh_rawEntered (s : State) (t : Thread) : (s.setTh t).rawEntered = s.rawEntered := rfl
@[simp] theorem State.setTh_clockMhz (s : State) (t : Thread) : (s.setTh t).clockMhz = s.clockMhz := rfl
@[simp] theorem State.setTh_laneTags (s : State) (t : Thread) : (s.setTh t).laneTags = s.laneTags := rfl
@[simp] theorem State.setTh_parts (s : State) (t : Thread) : (s.setTh t).parts = s.parts := rfl
@[simp] theorem State.setTh_groups (s : State) (t : Thread) : (s.setTh t).groups = s.groups := rfl
@[simp] theorem State.setTh_cores (s : State) (t : Thread) : (s.setTh t).cores = s.cores := rfl
@[simp] theorem State.setTh_dies (s : State) (t : Thread) : (s.setTh t).dies = s.dies := rfl
@[simp] theorem State.setTh_writes (s : State) (t : Thread) : (s.setTh t).writes = s.writes := rfl
@[simp] theorem State.setTh_applied (s : State) (t : Thread) : (s.setTh t).applied = s.applied := rfl
@[simp] theorem State.setTh_counted (s : State) (t : Thread) : (s.setTh t).counted = s.counted := rfl
@[simp] theorem State.setTh_pageModes (s : State) (t : Thread) : (s.setTh t).pageModes = s.pageModes := rfl
@[simp] theorem State.setTh_ptVersions (s : State) (t : Thread) : (s.setTh t).ptVersions = s.ptVersions := rfl
@[simp] theorem State.setTh_owners (s : State) (t : Thread) : (s.setTh t).owners = s.owners := rfl
@[simp] theorem State.setTh_sweeps (s : State) (t : Thread) : (s.setTh t).sweeps = s.sweeps := rfl
@[simp] theorem State.setTh_lateAmos (s : State) (t : Thread) : (s.setTh t).lateAmos = s.lateAmos := rfl
@[simp] theorem State.setTh_replicas (s : State) (t : Thread) : (s.setTh t).replicas = s.replicas := rfl
@[simp] theorem State.setTh_images (s : State) (t : Thread) : (s.setTh t).images = s.images := rfl
@[simp] theorem State.setTh_cuts (s : State) (t : Thread) : (s.setTh t).cuts = s.cuts := rfl
@[simp] theorem State.setTh_issues (s : State) (t : Thread) : (s.setTh t).issues = s.issues := rfl
@[simp] theorem State.setTh_transit (s : State) (t : Thread) : (s.setTh t).transit = s.transit := rfl
@[simp] theorem State.setTh_tenantRan (s : State) (t : Thread) : (s.setTh t).tenantRan = s.tenantRan := rfl
@[simp] theorem State.setTh_out (s : State) (t : Thread) : (s.setTh t).out = s.out := rfl
@[simp] theorem State.core_setTh (s : State) (m : Nat) (t : Thread) : (s.setTh t).core m = s.core m := rfl
@[simp] theorem State.group_setTh (s : State) (m : Nat) (t : Thread) : (s.setTh t).group m = s.group m := rfl
@[simp] theorem State.part_setTh (s : State) (m : Nat) (t : Thread) : (s.setTh t).part m = s.part m := rfl
@[simp] theorem State.die_setTh (s : State) (m : Nat) (t : Thread) : (s.setTh t).die m = s.die m := rfl
theorem State.th_setTh_of_ne (s : State) {t : Thread} (h : t ≠ {}) : (s.setTh t).th = t := tget_tput_of_ne _ _ _ h
theorem State.th_setTh (s : State) (t : Thread) (h : tsorted s.threads = true) : (s.setTh t).th = t :=
  tget_tput_self _ _ _ _ h
theorem State.thread_setTh_ne (s : State) {m : Nat} (t : Thread) (hm : m ≠ s.cur) (h : tsorted s.threads = true) :
    (s.setTh t).thread m = s.thread m := tget_tput_ne _ _ _ hm h

end Sys2Proof.Machine
end

