-- ==== Sys2Proof/Laws/Memory.lean ====
section
/-! SUPPORT. Laws of storage: every memory operation keeps the canonical form, and what a byte, a tag or a poison reads
after each. -/

namespace Sys2Proof.Machine

open Sys2Proof

/-- The canonical form, part by part. -/
theorem Memory.wf_iff (m : Memory) : m.wf = true ↔
    tsorted m.cells = true ∧ (∀ c ∈ m.cells, c.2 ≠ 0) ∧ tsorted m.tags = true ∧ (∀ c ∈ m.tags, c.2 ≠ Config.emptyTag)
      ∧ tsorted m.poison = true := by
  simp [Memory.wf, and_assoc]

theorem Memory.wf_empty : (({} : Memory)).wf = true := rfl

theorem Memory.wf_setByte {m : Memory} (h : m.wf = true) (a : Nat) (b : Byte) : (m.setByte a b).wf = true := by
  rw [Memory.wf_iff] at *
  obtain ⟨h1, h2, h3⟩ := h
  refine ⟨tsorted_tput _ _ _ _ h1, fun c hc => ?_, h3⟩
  rcases mem_tput hc with ⟨rfl, hb⟩ | hc
  · exact hb
  · exact h2 c hc

theorem Memory.wf_setTag {m : Memory} (h : m.wf = true) (u : Nat) (t : Tag) : (m.setTag u t).wf = true := by
  rw [Memory.wf_iff] at *
  obtain ⟨h1, h2, h3, h4, h5⟩ := h
  refine ⟨h1, h2, tsorted_tput _ _ _ _ h3, fun c hc => ?_, h5⟩
  rcases mem_tput hc with ⟨rfl, hb⟩ | hc
  · exact hb
  · exact h4 c hc

/-- Filtering keeps rising keys. -/
theorem tsorted_filter {α : Type} (p : Nat × α → Bool) (t : Tab α) (h : tsorted t = true) :
    tsorted (t.filter p) = true := by
  induction t with
  | nil => rfl
  | cons e l ih =>
    obtain ⟨k, v⟩ := e
    have hl := ih (tsorted_tail h)
    simp only [List.filter]
    split
    · exact tsorted_cons hl fun e he => tsorted_head_le h e (List.mem_filter.mp he).1
    · exact hl

/-- Rewriting entries in place keeps rising keys. -/
theorem tsorted_map {α β : Type} (f : Nat × α → β) (t : Tab α) (h : tsorted t = true) :
    tsorted (t.map fun e => (e.1, f e)) = true := by
  induction t with
  | nil => rfl
  | cons e l ih =>
    obtain ⟨k, v⟩ := e
    refine tsorted_cons (ih (tsorted_tail h)) fun e he => ?_
    obtain ⟨a, ha, rfl⟩ := List.mem_map.mp he
    exact tsorted_head_le h a ha

theorem Memory.wf_zeroRange {m : Memory} (h : m.wf = true) (a n : Nat) : (m.zeroRange a n).wf = true := by
  rw [Memory.wf_iff] at *
  obtain ⟨h1, h2, h3⟩ := h
  exact ⟨tsorted_filter _ _ h1, fun c hc => h2 c (List.mem_filter.mp hc).1, h3⟩

theorem Memory.wf_setPoison {m : Memory} (h : m.wf = true) (u : Nat) (p : Option Poison) : (m.setPoison u p).wf = true := by
  rw [Memory.wf_iff] at *
  obtain ⟨h1, h2, h3, h4, h5⟩ := h
  refine ⟨h1, h2, h3, h4, ?_⟩
  cases p with
  | none => exact tsorted_terase _ _ h5
  | some k => exact tsorted_tset _ _ _ h5

/-- A fold of steps that keep the form keeps it. -/
theorem Memory.wf_foldl {α : Type} (f : Memory → α → Memory) (hf : ∀ m x, m.wf = true → (f m x).wf = true) (l : List α)
    {m : Memory} (h : m.wf = true) : (l.foldl f m).wf = true := by
  induction l generalizing m with
  | nil => exact h
  | cons x l ih => exact ih (hf m x h)

theorem Memory.wf_writeUnit {m : Memory} (h : m.wf = true) (w : Who) (st : Store) (u : Nat) (cells : List WCell) :
    (writeUnit w st m u cells).wf = true := by
  have h1 : (if (!w.raw && m.tag u != w.tag) = true then (m.zeroRange (unitRange st u).1 (unitRange st u).2).setTag u w.tag
      else m).wf = true := by
    split
    · exact Memory.wf_setTag (Memory.wf_zeroRange h _ _) _ _
    · exact h
  simp only [writeUnit]
  split
  · exact Memory.wf_setPoison (Memory.wf_foldl _ (fun m x h => Memory.wf_setByte h _ _) _ h1) _ _
  · exact Memory.wf_foldl _ (fun m x h => Memory.wf_setByte h _ _) _ h1

/-- Emptying the units that are hit. -/
theorem Memory.wf_emptyUnits {m : Memory} (h : m.wf = true) (st : Store) (hit : Nat → Tag → Bool) : (emptyUnits st hit m).wf = true :=
  Memory.wf_foldl _ (fun _ _ h => Memory.wf_setPoison (Memory.wf_setTag (Memory.wf_zeroRange h _ _) _ _) _ _) _ h

theorem Memory.wf_sweepMem {m : Memory} (h : m.wf = true) (s : State) (p : Nat) (st : Store) :
    (sweepMem s p st m).wf = true := Memory.wf_emptyUnits h _ _

theorem Memory.wf_canonMem (m : Memory) : (canonMem m).wf = true := by
  unfold canonMem
  split
  · assumption
  · rfl

theorem Memory.wf_retagMem (old new : Tag) (m : Memory) : (retagMem old new m).wf = true := Memory.wf_canonMem _

/-! ## What is read after a write -/

theorem Memory.byte_setByte_self {m : Memory} (h : m.wf = true) (a : Nat) (b : Byte) : (m.setByte a b).byte a = b :=
  tget_tput_self _ _ _ _ ((Memory.wf_iff m).mp h).1
theorem Memory.byte_setByte_ne {m : Memory} (h : m.wf = true) {a c : Nat} (b : Byte) (hc : c ≠ a) :
    (m.setByte a b).byte c = m.byte c := tget_tput_ne _ _ _ hc ((Memory.wf_iff m).mp h).1
@[simp] theorem Memory.tag_setByte (m : Memory) (a u : Nat) (b : Byte) : (m.setByte a b).tag u = m.tag u := rfl
@[simp] theorem Memory.poison_setByte (m : Memory) (a : Nat) (b : Byte) : (m.setByte a b).poison = m.poison := rfl
theorem Memory.tag_setTag_self {m : Memory} (h : m.wf = true) (u : Nat) (t : Tag) : (m.setTag u t).tag u = t :=
  tget_tput_self _ _ _ _ ((Memory.wf_iff m).mp h).2.2.1
theorem Memory.tag_setTag_ne {m : Memory} (h : m.wf = true) {u v : Nat} (t : Tag) (hv : v ≠ u) :
    (m.setTag u t).tag v = m.tag v := tget_tput_ne _ _ _ hv ((Memory.wf_iff m).mp h).2.2.1
@[simp] theorem Memory.byte_setTag (m : Memory) (a u : Nat) (t : Tag) : (m.setTag u t).byte a = m.byte a := rfl
@[simp] theorem Memory.byte_setPoison (m : Memory) (a u : Nat) (p : Option Poison) : (m.setPoison u p).byte a = m.byte a := rfl
@[simp] theorem Memory.tag_setPoison (m : Memory) (v u : Nat) (p : Option Poison) : (m.setPoison u p).tag v = m.tag v := rfl
@[simp] theorem Memory.tag_zeroRange (m : Memory) (a n u : Nat) : (m.zeroRange a n).tag u = m.tag u := rfl

/-- Looking up a key that a filter keeps. -/
theorem tfind_filter_keep {α : Type} (p : Nat × α → Bool) (t : Tab α) (n : Nat) (h : ∀ v, p (n, v) = true)
    (hs : tsorted t = true) : tfind (t.filter p) n = tfind t n := by
  induction t with
  | nil => rfl
  | cons e l ih =>
    obtain ⟨k, v⟩ := e
    have ih := ih (tsorted_tail hs)
    by_cases hk : n = k
    · subst hk; simp [List.filter, h, tfind]
    · simp only [List.filter]
      split
      · simp only [tfind, hk, if_false, ih]
      · simp only [tfind, hk, if_false, ih]
        split
        · next hlt => exact tfind_none_of_lt fun e he => Nat.lt_trans hlt (tsorted_head_le hs e he)
        · rfl

/-- Looking up a key that a filter drops. -/
theorem tfind_filter_drop {α : Type} (p : Nat × α → Bool) (t : Tab α) (n : Nat) (h : ∀ v, p (n, v) = false) :
    tfind (t.filter p) n = none := by
  induction t with
  | nil => rfl
  | cons e l ih =>
    obtain ⟨k, v⟩ := e
    simp only [List.filter]
    split
    · next hp =>
      have hk : n ≠ k := fun hk => by subst hk; rw [h] at hp; cases hp
      simp only [tfind, hk, if_false, ih, ite_self]
    · exact ih

theorem Memory.byte_zeroRange_in (m : Memory) {a n c : Nat} (h1 : a ≤ c) (h2 : c < a + n) : (m.zeroRange a n).byte c = 0 := by
  have : tfind (m.zeroRange a n).cells c = none :=
    tfind_filter_drop _ _ _ fun v => by simp; omega
  simp [Memory.byte, tget, this]

theorem Memory.byte_zeroRange_out {m : Memory} (h : m.wf = true) {a n c : Nat} (hc : c < a ∨ a + n ≤ c) :
    (m.zeroRange a n).byte c = m.byte c := by
  have : tfind (m.zeroRange a n).cells c = tfind m.cells c :=
    tfind_filter_keep _ _ _ (fun v => by simp; omega) ((Memory.wf_iff m).mp h).1
  simp [Memory.byte, tget, this]

/-! ## The storage arrays of the package -/

@[simp] theorem memOf_setTh (s : State) (t : Thread) (st : Store) : memOf (s.setTh t) st = memOf s st := by cases st <;> rfl
@[simp] theorem memOf_setThread (s : State) (n : Nat) (t : Thread) (st : Store) : memOf (s.setThread n t) st = memOf s st := by
  cases st <;> rfl
@[simp] theorem memOf_setPart (s : State) (n : Nat) (x : Part) (st : Store) : memOf (s.setPart n x) st = memOf s st := by
  cases st <;> rfl
@[simp] theorem memOf_setGroup (s : State) (n : Nat) (x : Group) (st : Store) : memOf (s.setGroup n x) st = memOf s st := by
  cases st <;> rfl

/-- Reset lists no storage. -/
theorem memOf_reset (st : Store) : memOf State.reset st = {} := by cases st <;> rfl

/-- Every storage array is canonical at reset. -/
theorem wf_reset (st : Store) : (memOf State.reset st).wf = true := by rw [memOf_reset]; rfl

end Sys2Proof.Machine
end

