-- ==== Sys2Proof/Laws/Ops.lean ====
section
/-! SUPPORT. Laws of the shared operations: what an instruction on thread state, an instruction with a wider effect, and the
ends of both can do (04 R47-R55), and what a lane of a built vector reads as (05 R75). -/

namespace Sys2Proof.Machine

open Sys2Proof

/-! ## Enabled -/

theorem enabledAny_one (t : Thread) (h : Hdr) : enabledAny t h 1 = enabled t h := by
  unfold enabled enabledAny enabledAt
  congr 1
  unfold guardBit
  by_cases hg : h.grd = 127
  · simp [hg]
  · have : (h.grd == 127) = false := by simpa using hg
    rw [this]
    simp [List.range_succ]

theorem enabledAny_of_enabledAt {t : Thread} {h : Hdr} {n i : Nat} (hi : i < n) (he : enabledAt t h i = true) :
    enabledAny t h n = true := by
  unfold enabledAt guardBit at he
  unfold enabledAny guardBit
  by_cases hg : h.grd = 127
  · simp_all
  · simp only [hg, if_false, Bool.and_eq_true] at he ⊢
    refine ⟨he.1, ?_⟩
    simp only [Bool.or_eq_true, List.any_eq_true, List.mem_range]
    exact .inr ⟨i, hi, he.2⟩

/-- An unguarded instruction outside a loop body is enabled. -/
theorem enabled_of_plain {t : Thread} {h : Hdr} (hl : t.loop = none) (hg : h.grd = 127) (i : Nat) :
    enabledAt t h i = true := by
  simp [enabledAt, stageAct, guardBit, hl, hg]

theorem guardLost_of_plain {t : Thread} {h : Hdr} (hg : h.grd = 127) : guardLost t h = false := by
  simp [guardLost, hg]

/-! ## Appending and finishing -/

/-- Appending touches the window and the loop engine's record of drained values only. -/
theorem append_frame (t : Thread) (xs : List Val) :
    append t xs = { t with window := (append t xs).window, loop := (append t xs).loop } := by
  unfold append
  split
  · rfl
  · split <;> rfl

theorem append_window (t : Thread) (xs : List Val) : (append t xs).window = (xs.reverse ++ t.window).take 64 := by
  unfold append
  split
  · rfl
  · split <;> rfl

/-- Outside a loop body, or in a body that neither drains nor refills, the loop engine is left alone. -/
theorem append_loop_normal {t : Thread} (xs : List Val) (h : ∀ l, t.loop = some l → l.mode = .normal) :
    (append t xs).loop = t.loop := by
  unfold append
  split
  · rename_i e; simp [e]
  · rename_i l e
    rw [h l e]

/-- What finishing an instruction does to its thread, and that it does nothing else. -/
theorem finishThread_frame (t : Thread) (xs : List Val) (fl : Flags) (bytes : Nat) :
    finishThread t xs fl bytes =
      { t with window := (xs.reverse ++ t.window).take 64, loop := (append t xs).loop, status := .running, entered := false,
               atEntry := false, stepMode := retireStep t.stepMode, fpstat := t.fpstat ||| fl,
               pc := t.pc + BitVec.ofNat 64 bytes } := by
  unfold finishThread
  rw [append_frame, append_window]

@[simp] theorem finishThread_window (t : Thread) (xs : List Val) (fl : Flags) (b : Nat) :
    (finishThread t xs fl b).window = (xs.reverse ++ t.window).take 64 := by rw [finishThread_frame]
@[simp] theorem finishThread_pc (t : Thread) (xs : List Val) (fl : Flags) (b : Nat) :
    (finishThread t xs fl b).pc = t.pc + BitVec.ofNat 64 b := by rw [finishThread_frame]
@[simp] theorem finishThread_fpstat (t : Thread) (xs : List Val) (fl : Flags) (b : Nat) :
    (finishThread t xs fl b).fpstat = t.fpstat ||| fl := by rw [finishThread_frame]
@[simp] theorem finishThread_status (t : Thread) (xs : List Val) (fl : Flags) (b : Nat) :
    (finishThread t xs fl b).status = .running := by rw [finishThread_frame]
@[simp] theorem finishThread_sslots (t : Thread) (xs : List Val) (fl : Flags) (b : Nat) :
    (finishThread t xs fl b).sslots = t.sslots := by rw [finishThread_frame]
@[simp] theorem finishThread_vslots (t : Thread) (xs : List Val) (fl : Flags) (b : Nat) :
    (finishThread t xs fl b).vslots = t.vslots := by rw [finishThread_frame]
@[simp] theorem finishThread_preds (t : Thread) (xs : List Val) (fl : Flags) (b : Nat) :
    (finishThread t xs fl b).preds = t.preds := by rw [finishThread_frame]
@[simp] theorem finishThread_mods (t : Thread) (xs : List Val) (fl : Flags) (b : Nat) :
    (finishThread t xs fl b).mods = t.mods := by rw [finishThread_frame]
@[simp] theorem finishThread_trapinfo (t : Thread) (xs : List Val) (fl : Flags) (b : Nat) :
    (finishThread t xs fl b).trapinfo = t.trapinfo := by rw [finishThread_frame]
@[simp] theorem finishThread_hint (t : Thread) (xs : List Val) (fl : Flags) (b : Nat) :
    (finishThread t xs fl b).hint = t.hint := by rw [finishThread_frame]
@[simp] theorem finishThread_frames (t : Thread) (xs : List Val) (fl : Flags) (b : Nat) :
    (finishThread t xs fl b).frames = t.frames := by rw [finishThread_frame]
@[simp] theorem finishThread_seq (t : Thread) (xs : List Val) (fl : Flags) (b : Nat) :
    (finishThread t xs fl b).seq = t.seq := by rw [finishThread_frame]
@[simp] theorem finishThread_pend (t : Thread) (xs : List Val) (fl : Flags) (b : Nat) :
    (finishThread t xs fl b).pend = t.pend := by rw [finishThread_frame]
@[simp] theorem finishThread_lost (t : Thread) (xs : List Val) (fl : Flags) (b : Nat) :
    (finishThread t xs fl b).lost = t.lost := by rw [finishThread_frame]
@[simp] theorem finishThread_syncs (t : Thread) (xs : List Val) (fl : Flags) (b : Nat) :
    (finishThread t xs fl b).syncs = t.syncs := by rw [finishThread_frame]

theorem finishThread_ne_default (t : Thread) (xs : List Val) (fl : Flags) (b : Nat) : finishThread t xs fl b ≠ {} := by
  intro e
  have := congrArg Thread.status e
  simp at this

/-- The thread an instruction acts on, after it has been done. -/
@[simp] theorem th_finishIn (s : State) (xs : List Val) (fl : Flags) (b : Nat) :
    (finishIn s xs fl b).th = finishThread s.th xs fl b :=
  State.thread_setThread_of_ne _ _ (finishThread_ne_default _ _ _ _)

@[simp] theorem finishIn_cur (s : State) (xs : List Val) (fl : Flags) (b : Nat) : (finishIn s xs fl b).cur = s.cur := rfl
@[simp] theorem finishIn_dies (s : State) (xs : List Val) (fl : Flags) (b : Nat) : (finishIn s xs fl b).dies = s.dies := rfl
@[simp] theorem finishIn_cores (s : State) (xs : List Val) (fl : Flags) (b : Nat) : (finishIn s xs fl b).cores = s.cores := rfl
@[simp] theorem finishIn_groups (s : State) (xs : List Val) (fl : Flags) (b : Nat) :
    (finishIn s xs fl b).groups = s.groups := rfl
@[simp] theorem finishIn_parts (s : State) (xs : List Val) (fl : Flags) (b : Nat) : (finishIn s xs fl b).parts = s.parts := rfl
@[simp] theorem finishIn_writes (s : State) (xs : List Val) (fl : Flags) (b : Nat) :
    (finishIn s xs fl b).writes = s.writes := rfl

/-! ## An instruction on thread state -/

section OnThread

variable {t : Thread} {h : Hdr} {n : Nat} {ops : Except Nat (List Val)} {vs : List Val} {z : List Val}
  {f : List Val → List Val × Flags}

/-- Everything an instruction on thread state can do. -/
theorem onThread_cases :
    (∃ c, ops = .error c ∧ onThread t h n ops z f = .error (wordTrap t c)) ∨
    (∃ vs, ops = .ok vs ∧
      ((guardLost t h = true ∧ onThread t h n ops z f = .error { cause := 0x19 }) ∨
       (guardLost t h = false ∧ enabledAny t h n = false ∧
          onThread t h n ops z f = .ok (finishThread t (disabledVals t h z) 0)) ∨
       (guardLost t h = false ∧ enabledAny t h n = true ∧ vs.any (·.isLost) = true ∧
          onThread t h n ops z f = .error { cause := 0x19 }) ∨
       (guardLost t h = false ∧ enabledAny t h n = true ∧ vs.any (·.isLost) = false ∧
          onThread t h n ops z f = .ok (finishThread t (f vs).1 (f vs).2)))) := by
  unfold onThread
  cases ops with
  | error c => exact .inl ⟨c, rfl, rfl⟩
  | ok vs =>
    refine .inr ⟨vs, rfl, ?_⟩
    cases hg : guardLost t h <;> cases he : enabledAny t h n <;> cases hl : vs.any (·.isLost) <;>
      simp only [hl, Bool.not_true, Bool.not_false, if_true, if_false, Bool.false_eq_true, true_and, and_true, false_and, or_false,
        or_true, reduceCtorEq]

theorem onThread_error {c : Nat} (ho : ops = .error c) : onThread t h n ops z f = .error (wordTrap t c) := by
  rw [ho]; rfl

theorem onThread_run (ho : ops = .ok vs) (hg : guardLost t h = false) (he : enabledAny t h n = true)
    (hl : vs.any (·.isLost) = false) : onThread t h n ops z f = .ok (finishThread t (f vs).1 (f vs).2) := by
  simp [onThread, ho, hg, he, hl]

theorem onThread_off (ho : ops = .ok vs) (hg : guardLost t h = false) (he : enabledAny t h n = false) :
    onThread t h n ops z f = .ok (finishThread t (disabledVals t h z) 0) := by
  simp [onThread, ho, hg, he]

end OnThread

section Effects

variable {s : State} {h : Hdr} {n : Nat} {ops : Except Nat (List Val)} {vs : List Val} {z : List Val}

theorem ofThread_ok {r : ThreadStep} {t : Thread} (e : r = .ok t) : ofThread s r = s.setTh t := by rw [e]; rfl

theorem ofThread_error {r : ThreadStep} {c : Trap} (e : r = .error c) : ofThread s r = raise s c := by rw [e]; rfl

/-- Everything an instruction with an effect beyond its thread can do before that effect: a cause of its word, a lost
guard, nothing when every lane is disabled, the cause that keeps it from having an effect, a lost operand, its effect. -/
theorem effectGate_cases {g : Option Trap} {f : List Val → State} {b : Nat} :
    (∃ c, ops = .error c ∧ effectGate s h n g ops z f b = raise s (wordTrap s.th c)) ∨
    (∃ vs, ops = .ok vs ∧
      ((guardLost s.th h = true ∧ effectGate s h n g ops z f b = raise s { cause := 0x19 }) ∨
       (guardLost s.th h = false ∧ enabledAny s.th h n = false ∧
          effectGate s h n g ops z f b = finishIn s (disabledVals s.th h z) 0 b) ∨
       (guardLost s.th h = false ∧ enabledAny s.th h n = true ∧
          ∃ c, g = some c ∧ effectGate s h n g ops z f b = raise s c) ∨
       (guardLost s.th h = false ∧ enabledAny s.th h n = true ∧ g = none ∧ vs.any (·.isLost) = true ∧
          effectGate s h n g ops z f b = raise s { cause := 0x19 }) ∨
       (guardLost s.th h = false ∧ enabledAny s.th h n = true ∧ g = none ∧ vs.any (·.isLost) = false ∧
          effectGate s h n g ops z f b = f vs))) := by
  unfold effectGate
  cases ops with
  | error c => exact .inl ⟨c, rfl, rfl⟩
  | ok vs =>
    refine .inr ⟨vs, rfl, ?_⟩
    cases hg : guardLost s.th h <;> cases he : enabledAny s.th h n <;> cases g <;> cases hl : vs.any (·.isLost) <;> simp [hl]

/-- It raises no cause of its word, guard, gate or operands: its effect. -/
theorem effectGate_run {f : List Val → State} {b : Nat} (ho : ops = .ok vs) (hg : guardLost s.th h = false)
    (he : enabledAny s.th h n = true) (hl : vs.any (·.isLost) = false) : effectGate s h n none ops z f b = f vs := by
  simp [effectGate, ho, hg, he, hl]

theorem effectGate_off {g : Option Trap} {f : List Val → State} {b : Nat} (ho : ops = .ok vs) (hg : guardLost s.th h = false)
    (he : enabledAny s.th h n = false) : effectGate s h n g ops z f b = finishIn s (disabledVals s.th h z) 0 b := by
  simp [effectGate, ho, hg, he]

/-- An enabled word that may not have its effect takes the cause of it, lost operands or not. -/
theorem effectGate_trap {c : Trap} {f : List Val → State} {b : Nat} (ho : ops = .ok vs) (hg : guardLost s.th h = false)
    (he : enabledAny s.th h n = true) : effectGate s h n (some c) ops z f b = raise s c := by
  simp [effectGate, ho, hg, he]

theorem effectLanes_run {f : List Val → State} {b : Nat} (ho : ops = .ok vs) (hg : guardLost s.th h = false)
    (he : enabledAny s.th h n = true) (hl : vs.any (·.isLost) = false) : effectLanes s h n ops z f b = f vs :=
  effectGate_run ho hg he hl

theorem effectLanes_off {f : List Val → State} {b : Nat} (ho : ops = .ok vs) (hg : guardLost s.th h = false)
    (he : enabledAny s.th h n = false) : effectLanes s h n ops z f b = finishIn s (disabledVals s.th h z) 0 b :=
  effectGate_off ho hg he

theorem effectOp_run {f : List Val → State} (ho : ops = .ok vs) (hg : guardLost s.th h = false)
    (he : enabled s.th h = true) (hl : vs.any (·.isLost) = false) : effectOp s h ops z f = f vs :=
  effectLanes_run ho hg (by rw [enabledAny_one]; exact he) hl

theorem effectOp_off {f : List Val → State} (ho : ops = .ok vs) (hg : guardLost s.th h = false)
    (he : enabled s.th h = false) : effectOp s h ops z f = finishIn s (disabledVals s.th h z) :=
  effectLanes_off ho hg (by rw [enabledAny_one]; exact he)

/-- A scalar instruction that runs appends its one scalar. -/
theorem scalarOp_run {fs : List OpField} {f : List Word → Word × Flags}
    (ho : getOps s.th (fs.map fun o => (Need.s, o)) = .ok vs) (hg : guardLost s.th h = false)
    (he : enabled s.th h = true) (hl : vs.any (·.isLost) = false) :
    scalarOp s h fs f = finishIn s [.s (f (vs.map (·.word))).1] (f (vs.map (·.word))).2 := by
  unfold scalarOp
  rw [onThread_run ho hg (by rw [enabledAny_one]; exact he) hl]
  rfl

/-- A disabled scalar instruction appends zero, or its drained value. -/
theorem scalarOp_off {fs : List OpField} {f : List Word → Word × Flags}
    (ho : getOps s.th (fs.map fun o => (Need.s, o)) = .ok vs) (hg : guardLost s.th h = false)
    (he : enabled s.th h = false) : scalarOp s h fs f = finishIn s (disabledVals s.th h [.s 0]) := by
  unfold scalarOp
  rw [onThread_off ho hg (by rw [enabledAny_one]; exact he)]
  rfl

theorem vectorOp_run {f : List Val → List Val × Flags} (ho : ops = .ok vs) (hg : guardLost s.th h = false)
    (he : enabledAny s.th h n = true) (hl : vs.any (·.isLost) = false) :
    vectorOp s h n ops z f = finishIn s (f vs).1 (f vs).2 := by
  unfold vectorOp
  rw [onThread_run ho hg he hl]
  rfl

theorem vectorOp_off {f : List Val → List Val × Flags} (ho : ops = .ok vs) (hg : guardLost s.th h = false)
    (he : enabledAny s.th h n = false) : vectorOp s h n ops z f = finishIn s (disabledVals s.th h z) := by
  unfold vectorOp
  rw [onThread_off ho hg he]
  rfl

/-- An instruction that appends nothing and updates its thread. -/
theorem updOp_run {fs : List (Need × OpField)} {f : List Val → Thread → Thread} (ho : getOps s.th fs = .ok vs)
    (hg : guardLost s.th h = false) (he : enabled s.th h = true) (hl : vs.any (·.isLost) = false) :
    updOp s h fs f = s.setTh (f vs (finishThread s.th [] 0)) := by
  simp only [updOp]
  rw [onThread_run ho hg (by rw [enabledAny_one]; exact he) hl]
  simp [he, ho, Except.toOption, ofThread]

theorem updOp_off {fs : List (Need × OpField)} {f : List Val → Thread → Thread} (ho : getOps s.th fs = .ok vs)
    (hg : guardLost s.th h = false) (he : enabled s.th h = false) : updOp s h fs f = finishIn s (disabledVals s.th h []) := by
  simp only [updOp]
  rw [onThread_off ho hg (by rw [enabledAny_one]; exact he)]
  simp [he, ofThread, finishIn]

/-- All that a transfer can do (12 R231; 04 R55). -/
theorem transferOp_cases {fs : List (Need × OpField)} {w : List Val} {m : List Val → List Val → Bool} {f : List Val → List Val → State} :
    (∃ c, transferIn s.th fs w n = .error c ∧ transferOp s h fs w n m f = raise s (wordTrap s.th c)) ∨
    ∃ vs p, transferIn s.th fs w n = .ok (vs, p) ∧
      ((guardLost s.th h = true ∨ enabled s.th h = true ∧ vs.any (·.isLost) = true) ∧ transferOp s h fs w n m f = raise s { cause := 0x19 } ∨
       guardLost s.th h = false ∧ enabled s.th h = false ∧
         transferOp s h fs w n m f = (if m vs p then finishIn s [] else raise s (wordTrap s.th 4)) ∨
       guardLost s.th h = false ∧ enabled s.th h = true ∧ vs.any (·.isLost) = false ∧ transferOp s h fs w n m f = f vs p) := by
  cases e : transferIn s.th fs w n with
  | error c => exact .inl ⟨c, rfl, by simp [transferOp, e]⟩
  | ok x =>
    refine .inr ⟨x.1, x.2, rfl, ?_⟩
    cases hg : guardLost s.th h <;> cases he : enabled s.th h <;> cases hl : x.1.any (·.isLost) <;>
      simp [transferOp, e, hg, he, hl]

end Effects

/-! ## Operands -/

theorem getOps_nil (t : Thread) : getOps t [] = .ok [] := rfl

/-- Reading several operands is reading each. -/
theorem getOps_cons {t : Thread} {n : Need} {f : OpField} {l : List (Need × OpField)} {v : Val} {vs : List Val}
    (h : getOp t n f = .ok v) (hs : getOps t l = .ok vs) : getOps t ((n, f) :: l) = .ok (v :: vs) := by
  simp [getOps, h, hs]

theorem getOps_cons_ok {t : Thread} {n : Need} {f : OpField} {l : List (Need × OpField)} {vs : List Val}
    (h : getOps t ((n, f) :: l) = .ok vs) : ∃ v ws, vs = v :: ws ∧ getOp t n f = .ok v ∧ getOps t l = .ok ws := by
  simp only [getOps] at h
  split at h <;> first | (injection h with h; subst h; exact ⟨_, _, rfl, ‹_›, ‹_›⟩) | cases h

theorem getOps_length {t : Thread} {l : List (Need × OpField)} {vs : List Val} (h : getOps t l = .ok vs) :
    vs.length = l.length := by
  induction l generalizing vs with
  | nil => simp only [getOps] at h; injection h with h; subst h; rfl
  | cons a l ih =>
    obtain ⟨n, f⟩ := a
    obtain ⟨v, ws, rfl, _, hs⟩ := getOps_cons_ok h
    simp [ih hs]

/-! ## Lanes -/

theorem foldr_lanes_lt (w : Nat) (l : List Nat) :
    l.foldr (fun x acc => x % 2 ^ w + 2 ^ w * acc) 0 < 2 ^ (w * l.length) := by
  induction l with
  | nil => simp
  | cons x l ih =>
    simp only [List.foldr_cons, List.length_cons]
    have h1 := Nat.mod_lt x (Nat.two_pow_pos w)
    rw [Nat.mul_add, Nat.mul_one, Nat.pow_add, Nat.mul_comm (2 ^ (w * l.length))]
    calc x % 2 ^ w + 2 ^ w * _ < 2 ^ w + 2 ^ w * _ := Nat.add_lt_add_right h1 _
      _ = 2 ^ w * (l.foldr (fun x acc => x % 2 ^ w + 2 ^ w * acc) 0 + 1) := by ring
      _ ≤ _ := Nat.mul_le_mul_left _ ih

theorem foldr_lanes_get (w : Nat) (l : List Nat) (i : Nat) :
    l.foldr (fun x acc => x % 2 ^ w + 2 ^ w * acc) 0 / 2 ^ (i * w) % 2 ^ w = l.getD i 0 % 2 ^ w := by
  induction l generalizing i with
  | nil => simp
  | cons x l ih =>
    simp only [List.foldr_cons]
    have h1 := Nat.mod_lt x (Nat.two_pow_pos w)
    cases i with
    | zero => simp [Nat.add_mul_mod_self_left]
    | succ i =>
      rw [Nat.succ_mul, Nat.add_comm (i * w), Nat.pow_add, ← Nat.div_div_eq_div_mul,
        Nat.add_mul_div_left _ _ (Nat.two_pow_pos w), Nat.div_eq_of_lt h1, Nat.zero_add]
      simpa using ih i

/-- A lane of a built vector is the value it was built from (R75). -/
theorem lane_ofLanes (w : Nat) (l : List Nat) (i : Nat) (h : i * w + w ≤ 4096) :
    lane w (ofLanes w l) i = l.getD i 0 % 2 ^ w := by
  unfold lane ofLanes
  rw [BitVec.extractLsb'_toNat, BitVec.toNat_ofNat, Nat.shiftRight_eq_div_pow, ← foldr_lanes_get]
  generalize l.foldr _ 0 = m
  have h4 : 4096 = i * w + (4096 - i * w) := by omega
  rw [h4, Nat.pow_add, Nat.mod_mul_right_div_self]
  rw [Nat.mod_mod_of_dvd]
  exact Nat.pow_dvd_pow 2 (by omega)

end Sys2Proof.Machine
end

