-- ==== Sys2Proof/Tests/Slice0.lean ====
section
/-! SUPPORT. Tests: a refused word for each check of `check`, a word of every instruction written from its encoding, results of
single steps taken from the rules of spec/ (by hand, or the spec's worked examples), and for each statement a state and operands that
meet its hypotheses. -/

namespace Sys2Proof.Tests

open Sys2Proof Sys2Proof.Machine Sys2Proof.Safety Sys2Proof.Spec

set_option Elab.async false

/-! ## States -/

/-- A plain header: stage 0, no guard. -/
def h : Hdr := ⟨0, 127, 0⟩
/-- A thread at an instruction, its window newest first. -/
def running (w : List Val) : Thread := { status := .running, pc := 0x1000, window := w }
/-- Partition 1 is open at generation 3 and live on group 0; its execute thread of core 0 runs. -/
def tenant (w : List Val) : State :=
  { State.reset with
    firmware := .running, cur := 1, groups := [(0, { live := some 1 })],
    parts := [(0, { isOpen := true }), (1, { gen := 3, isOpen := true, groups := 1 })], threads := [(1, running w)] }
/-- The same with its access thread running. -/
def accessor (w : List Val) : State := { tenant w with cur := 0, threads := [(0, running w)] }
/-- The service thread of die 0 runs. -/
def service (w : List Val) : State := { tenant w with cur := 513, threads := [(513, running w)] }
/-- The state with this thread in place of the current one. -/
def onTh (s : State) (f : Thread → Thread) : State := s.setTh (f s.th)

/-! ## What a test asks -/

/-- The instruction appends exactly `vs`, oldest first, raises `fl` and goes on at the next word. -/
def gives (i : Instr) (s : State) (vs : List Val) (fl : Nat := 0) : Bool :=
  match exec i s with
  | .next t => t.th.window == vs.reverse ++ s.th.window && t.th.fpstat == BitVec.ofNat 6 fl && t.th.pc == s.th.pc + 8
      && t.th.status == .running
  | _ => false
/-- The instruction raises this cause on the current thread. -/
def traps (i : Instr) (s : State) (cause : Nat) : Bool :=
  match exec i s with
  | .next t => t.th.status == .trapped && (t.th.trapinfo.toNat % 64 == cause) && t.th.window == s.th.window
  | _ => false
/-- The state after it meets `p`. -/
def leaves (i : Instr) (s : State) (p : State → Bool) : Bool :=
  match exec i s with
  | .next t => p t
  | _ => false
/-- Every list of words decodes to the instruction beside it. -/
def decodesTo (l : List (List Word × Instr)) : Bool := l.all fun p => decide (decode p.1 = .ok p.2)

/-! ## Ill-formed words (R72), one for each check -/

theorem test_refuse_guard : check (.add ⟨0, 96, 0⟩ ⟨0, 0, 0, 0, 0, 8⟩) = some .guard := by decide
theorem test_refuse_lend_guard : check (.lend ⟨0, 3, 0⟩ ⟨0, 0, 0, 0xFFFFFE⟩) = some .guard := by decide
theorem test_refuse_sense : check (.add ⟨0, 127, 1⟩ ⟨0, 0, 0, 0, 0, 8⟩) = some .sense := by decide
theorem test_refuse_unused_operand : check (.add h ⟨0, 0, 1, 0, 0, 8⟩) = some .operand := by decide
theorem test_refuse_neg : check (.and_ h ⟨0x100, 0, 0, 0, 0, 8⟩) = some .operand := by decide
theorem test_refuse_slot_run : check (.keep h ⟨0x40, 0, 0, 1⟩) = some .operand := by decide
theorem test_refuse_scale : check (.clz h ⟨0, 0, 0, 1, 0, 8⟩) = some .scale := by decide
theorem test_refuse_typ : check (.add h ⟨0, 0, 0, 0, 0, 0x10⟩) = some .typ := by decide
theorem test_refuse_pair : check (.vwid h ⟨0, 0x02, 0, 0, 0, 0x08⟩) = some .typ := by decide
theorem test_refuse_keep_zero : check (.keep h ⟨0, 0, 0, 0⟩) = some .range := by decide
theorem test_refuse_nps : check (.jmp h ⟨0, 9, 0, 1⟩) = some .range := by decide
theorem test_refuse_loop_offset : check (.loop h ⟨0, 0, 0, 1⟩) = some .range := by decide
theorem test_refuse_order : check (.ldi h ⟨0, 0, 3, 2, 0, 0, 0, 0⟩) = some .range := by decide
theorem test_refuse_scope : check (.sync h ⟨0, 0, 0, 0, 1, 0, 0⟩) = some .range := by decide
theorem test_refuse_head : check (.nop h ⟨0, 0, 0, 0x8102⟩) = some .range := by decide
theorem test_refuse_csr : check (.csrr h ⟨0, 0, 0, 0x2C⟩) = some .range := by decide
theorem test_refuse_raw : decode [0xD0E1FC0000000003] = .error .range := by decide
theorem test_refuse_space : check (.cp h ⟨0, 0, 0, 0, 0, 0, 0, 0, 0, 0, 11 <<< 59, 0, 0, 0, 0, 0⟩) = some .space := by decide
theorem test_refuse_override : check (.cp h ⟨0, 0, 0, 0, 1, 0, 0, 0, 0, 0, 0, 0, 0, 0, 0, 0⟩) = some .space := by decide
theorem test_refuse_short_record : decode [0xC101FC0000000000, 0, 0] = .error .words := by decide
theorem test_refuse_short_lit : decode [0xE011FC0000000000] = .error .words := by decide
theorem test_refuse_event : check .powerOn = some .event := by decide
theorem test_unassigned_minor : decode [0x11D1FC0000000000] = .ok (.nonInstructionWord 0x11D1FC0000000000) := by decide

/-! ## Decoding: a word of every instruction, its minor from R71 and its fields from R46 and R57-R65 -/

theorem test_decode_scalar : decodesTo
  [([0x1001FC0301001F88], .add h ⟨3, 2, 0, 1, 0x1F, 8⟩),
   ([0x1011FD0320802089], .sub h ⟨0x103, 0x41, 0, 2, 1, 9⟩),
   ([0x1023FC0301800008], .mul ⟨1, 127, 0⟩ ⟨3, 3, 0, 0, 0, 8⟩),
   ([0x1031FC0100000009], .mulh h ⟨1, 0, 0, 0, 0, 9⟩),
   ([0x1041FC8502003812], .div h ⟨0x85, 4, 0, 3, 0x10, 0x12⟩),
   ([0x1050160100000006], .rem ⟨0, 5, 1⟩ ⟨1, 0, 0, 0, 0, 6⟩),
   ([0x1061FC02809FC212], .mad h ⟨2, 0x101, 0x7F, 0, 4, 0x12⟩),
   ([0x1071FC4503000007], .and_ h ⟨0x45, 6, 0, 0, 0, 7⟩),
   ([0x1081FC4503000007], .or_ h ⟨0x45, 6, 0, 0, 0, 7⟩),
   ([0x1091FC4503000007], .xor_ h ⟨0x45, 6, 0, 0, 0, 7⟩),
   ([0x10A1FC4503000007], .andn h ⟨0x45, 6, 0, 0, 0, 7⟩),
   ([0x10B1FC4503000007], .shl h ⟨0x45, 6, 0, 0, 0, 7⟩),
   ([0x10C1FC4503000007], .shr h ⟨0x45, 6, 0, 0, 0, 7⟩),
   ([0x10D1FC4503000006], .sar h ⟨0x45, 6, 0, 0, 0, 6⟩),
   ([0x10E1FC4503000007], .rotl h ⟨0x45, 6, 0, 0, 0, 7⟩),
   ([0x10F1FC0900000009], .clz h ⟨9, 0, 0, 0, 0, 9⟩),
   ([0x1101FC0900000009], .ctz h ⟨9, 0, 0, 0, 0, 9⟩),
   ([0x1111FC0900000009], .popc h ⟨9, 0, 0, 0, 0, 9⟩),
   ([0x1121FD0201800012], .min h ⟨0x102, 3, 0, 0, 0, 0x12⟩),
   ([0x1131FC0241800008], .max h ⟨2, 0x83, 0, 0, 0, 8⟩),
   ([0x1141FC0000800012], .cmp3 h ⟨0, 1, 0, 0, 0, 0x12⟩),
   ([0x1151FC0200800012], .sel h ⟨2, 1, 0, 0, 0, 0x12⟩),
   ([0x1161FC0100000009], .bfx h ⟨1, 0, 0, 0, 0, 9⟩),
   ([0x1171FC0200800009], .bfi h ⟨2, 1, 0, 0, 0, 9⟩),
   ([0x1181FC0400000007], .bnet h ⟨4, 0, 0, 0, 0, 7⟩),
   ([0x1191FC0209001186], .cvt h ⟨2, 0x12, 0, 1, 3, 6⟩),
   ([0x11A1FC0100000012], .sqrt h ⟨1, 0, 0, 0, 0, 0x12⟩),
   ([0x11B1FC0700800008], .lea h ⟨7, 1, 0, 0, 0, 8⟩),
   ([0x11CF7F4100000008], .mov ⟨7, 95, 1⟩ ⟨0x141, 0, 0, 0, 0, 8⟩)] = true := by decide +kernel

theorem test_decode_vector : decodesTo
  [([0x2001FC01A1001F10], .vadd h ⟨1, 0x142, 0, 1, 0x1E, 0x10⟩),
   ([0x2011FC01A1001F10], .vsub h ⟨1, 0x142, 0, 1, 0x1E, 0x10⟩),
   ([0x2021FC01A1001F10], .vmul h ⟨1, 0x142, 0, 1, 0x1E, 0x10⟩),
   ([0x2031FC0101000003], .vmulh h ⟨1, 2, 0, 0, 0, 3⟩),
   ([0x2041FC010100E011], .vmad h ⟨1, 2, 3, 2, 0, 0x11⟩),
   ([0x2051FC0101000000], .vmin h ⟨1, 2, 0, 0, 0, 0⟩),
   ([0x2061FD0101000012], .vmax h ⟨0x101, 2, 0, 0, 0, 0x12⟩),
   ([0x2071FC4101000000], .vand h ⟨0x41, 2, 0, 0, 0, 0⟩),
   ([0x2081FC4101000005], .vor h ⟨0x41, 2, 0, 0, 0, 5⟩),
   ([0x2091FC4101000005], .vxor h ⟨0x41, 2, 0, 0, 0, 5⟩),
   ([0x20A1FC4101000005], .vshl h ⟨0x41, 2, 0, 0, 0, 5⟩),
   ([0x20B1FC4101000005], .vshr h ⟨0x41, 2, 0, 0, 0, 5⟩),
   ([0x20C1FC4101000005], .vsar h ⟨0x41, 2, 0, 0, 0, 5⟩),
   ([0x20D1FC010100C002], .vsel h ⟨1, 2, 3, 0, 0, 2⟩),
   ([0x20E1FC0101000007], .vdiv h ⟨1, 2, 0, 0, 0, 7⟩),
   ([0x20F1FC0800000092], .vsqrt h ⟨8, 0, 0, 0, 1, 0x12⟩),
   ([0x2101FC0800000092], .vrcp h ⟨8, 0, 0, 0, 1, 0x12⟩),
   ([0x2111FC0800000092], .vrsqrt h ⟨8, 0, 0, 0, 1, 0x12⟩),
   ([0x2121FC0800000092], .vexp2 h ⟨8, 0, 0, 0, 1, 0x12⟩),
   ([0x2131FC0800000092], .vlog2 h ⟨8, 0, 0, 0, 1, 0x12⟩),
   ([0x2141FC0108000004], .vcvt h ⟨1, 0x10, 0, 0, 0, 4⟩),
   ([0x2151FC0101000006], .vwid h ⟨1, 2, 0, 0, 0, 6⟩),
   ([0x2161FC0100000012], .vred h ⟨1, 0, 0, 0, 0, 0x12⟩),
   ([0x2171FC0100000002], .vscan h ⟨1, 0, 0, 0, 0, 2⟩),
   ([0x2181FC010100C003], .vperm h ⟨1, 2, 3, 0, 0, 3⟩),
   ([0x2191FC0101000000], .vbcast h ⟨1, 2, 0, 0, 0, 0⟩),
   ([0x21A1FC010100C002], .vslide h ⟨1, 2, 3, 0, 0, 2⟩),
   ([0x21B1FC0101000004], .vtrn h ⟨1, 2, 0, 0, 0, 4⟩),
   ([0x21C1FC0103000002], .vpack h ⟨1, 6, 0, 0, 0, 2⟩),
   ([0x21D1FC0109000022], .vmxq h ⟨1, 0x12, 0, 0, 0, 0x22⟩),
   ([0x21E1FC0101088012], .vmxdq h ⟨1, 2, 0x22, 0, 0, 0x12⟩),
   ([0x21F1FC010100C020], .vbmap h ⟨1, 2, 3, 0, 0, 0x20⟩),
   ([0x2201FC0100000003], .vbnet h ⟨1, 0, 0, 0, 0, 3⟩),
   ([0x2211FC0100000003], .vpopc h ⟨1, 0, 0, 0, 0, 3⟩),
   ([0x2221FC0100000009], .vclz h ⟨1, 0, 0, 0, 0, 9⟩),
   ([0x2231FC010100C003], .vdot4 h ⟨1, 2, 3, 0, 0, 3⟩),
   ([0x2245788100000110], .vmov ⟨2, 94, 0⟩ ⟨0x81, 0, 0, 0, 2, 0x10⟩),
   ([0x2251FC0101000011], .vcvtsr h ⟨1, 2, 0, 0, 0, 0x11⟩),
   ([0x2261FD0000000005], .vli h ⟨0x100, 0, 0, 0, 0, 5⟩)] = true := by decide +kernel

theorem test_decode_immediate : decodesTo
  [([0x3001FC0080000000], .li h ⟨0, 0x80000000⟩),
   ([0x3011FC4180000001], .lih h ⟨0x41, 0x80000001⟩),
   ([0x3021FC4280000002], .addi h ⟨0x42, 0x80000002⟩),
   ([0x3031FC4380000003], .andi h ⟨0x43, 0x80000003⟩),
   ([0x3041FC4480000004], .ori h ⟨0x44, 0x80000004⟩),
   ([0x3051FC4580000005], .xori h ⟨0x45, 0x80000005⟩),
   ([0x3061FC4680000006], .shli h ⟨0x46, 0x80000006⟩),
   ([0x3071FC4780000007], .shri h ⟨0x47, 0x80000007⟩),
   ([0x3081FC4880000008], .sari h ⟨0x48, 0x80000008⟩),
   ([0x3091FC0080000009], .lf h ⟨0, 0x80000009⟩)] = true := by decide +kernel

theorem test_decode_modular : decodesTo
  [([0x4001FD010100038C], .mqadd h ⟨0x101, 2, 0, 0, 7, 0xC⟩),
   ([0x4011FC010100038C], .mqsub h ⟨1, 2, 0, 0, 7, 0xC⟩),
   ([0x4021FC01A100038C], .mqmul h ⟨1, 0x142, 0, 0, 7, 0xC⟩),
   ([0x4031FC010100C38C], .mqmac h ⟨1, 2, 3, 0, 7, 0xC⟩),
   ([0x4041FC010000038C], .mqred h ⟨1, 0, 0, 0, 7, 0xC⟩),
   ([0x4051FC010100C38C], .mqbct h ⟨1, 2, 3, 0, 7, 0xC⟩),
   ([0x4061FC030100438C], .mqbgs h ⟨3, 2, 1, 0, 7, 0xC⟩),
   ([0x4071FC010000038C], .mqset h ⟨1, 0, 0, 0, 7, 0xC⟩)] = true := by decide +kernel

theorem test_decode_state : decodesTo
  [([0x5001FC000000003F], .sget h ⟨0, 0, 0, 0x3F⟩),
   ([0x5011FC04003F0000], .sput h ⟨4, 0, 0x3F, 0⟩),
   ([0x5021FC000000003F], .vget h ⟨0, 0, 0, 0x3F⟩),
   ([0x5031FC41003E0000], .vput h ⟨0x41, 0, 0x3E, 0⟩),
   ([0x5041FC0700000008], .keep h ⟨7, 0, 0, 8⟩),
   ([0x5051FC0220DF0127], .pcmp h ⟨2, 0x41, 0x5F, 0x127⟩),
   ([0x5061FC00005F0001], .pset h ⟨0, 0, 0x5F, 1⟩),
   ([0x5071FC0000035F5E], .pand h ⟨0, 0, 3, 0x5F5E⟩),
   ([0x5081FC0000035F5E], .por h ⟨0, 0, 3, 0x5F5E⟩),
   ([0x5091FC0000035F5E], .pxor h ⟨0, 0, 3, 0x5F5E⟩),
   ([0x50A1FC000003005F], .pnot h ⟨0, 0, 3, 0x5F⟩),
   ([0x50B1FC000003005F], .pmov h ⟨0, 0, 3, 0x5F⟩),
   ([0x50C1FC000000005F], .pany h ⟨0, 0, 0, 0x5F⟩),
   ([0x50D1FC0000000042], .csrr h ⟨0, 0, 0, 0x42⟩),
   ([0x50E1FC0500000010], .csrw h ⟨5, 0, 0, 0x10⟩),
   ([0x50F1FC05000F0003], .tdset h ⟨5, 0, 0xF, 3⟩),
   ([0x5101FC00000F0002], .tdget h ⟨0, 0, 0xF, 2⟩),
   ([0x5111FC0000000007], .lidx h ⟨0, 0, 0, 7⟩),
   ([0x5121FC0500070000], .bnld h ⟨5, 0, 7, 0⟩),
   ([0x5131FC0000000000], .gen h ⟨0, 0, 0, 0⟩)] = true := by decide +kernel

theorem test_decode_control : decodesTo
  [([0x6001FC0080FFFFFE], .jmp h ⟨0, 8, 0, 0xFFFFFE⟩),
   ([0x6011FC4110800000], .brt h ⟨0x41, 1, 0, 0x800000⟩),
   ([0x6021FC0100000005], .brf h ⟨1, 0, 0, 5⟩),
   ([0x6031FC00307FFFFF], .call h ⟨0, 3, 0, 0x7FFFFF⟩),
   ([0x6041FC0080000000], .ret h ⟨0, 8, 0, 0⟩),
   ([0x6051FC0310000000], .jmpi h ⟨3, 1, 0, 0⟩),
   ([0x6061FC0320000000], .calli h ⟨3, 2, 0, 0⟩),
   ([0x6071FC0240001000], .loop h ⟨2, 4, 0, 0x1000⟩),
   ([0x6081FC0017FFF000], .lend h ⟨0, 1, 7, 0xFFF000⟩),
   ([0x6091FC0000000000], .done h ⟨0, 0, 0, 0⟩),
   ([0x60A1FC0000FFFEFF], .brk h ⟨0, 0, 0, 0xFFFEFF⟩),
   ([0x60B000000000002A], .trap ⟨0, 0, 0⟩ ⟨0, 0, 0, 0x2A⟩),
   ([0x60C1FC0000000000], .alive h ⟨0, 0, 0, 0⟩)] = true := by decide +kernel

theorem test_decode_memory : decodesTo
  [([0x7001FC0000334FFF], .ldi h ⟨0, 0, 3, 1, 5, 0, 0, 0xFFF⟩),
   ([0x7011FC0100090800], .ldn h ⟨1, 0, 0, 4, 4, 0, 0, 0x800⟩),
   ([0x7021FC01005007FF], .ldv h ⟨1, 0, 5, 0, 0, 0, 0, 0x7FF⟩),
   ([0x7031FC0600200000], .st h ⟨6, 0, 2, 0, 0, 0, 0, 0⟩),
   ([0x7041FC0620C4E040], .stv h ⟨6, 0x41, 4, 2, 3, 1, 0, 0x40⟩),
   ([0x7051FC0600500000], .pref h ⟨6, 0, 5, 0, 0, 0, 0, 0⟩),
   ([0x7061FC0600000000], .seal h ⟨6, 0, 0, 0, 0, 0, 0, 0⟩),
   ([0x7071FC4500000000], .unseal h ⟨0x45, 0, 0, 0, 0, 0, 0, 0⟩),
   ([0x7081FC0603D88200], .ldq h ⟨6, 7, 5, 4, 2, 0, 0, 0x200⟩)] = true := by decide +kernel

theorem test_decode_tensor : decodesTo
  [([0x8001FC0101001FFF], .tld h ⟨1, 2, 0, 0, 0x1FFF⟩),
   ([0x8011FC010100E001], .tst h ⟨1, 2, 3, 1, 1⟩),
   ([0x8021FC010101D000], .tldq h ⟨1, 2, 7, 0, 0x1000⟩),
   ([0x8031FC4101000005], .tgat h ⟨0x41, 2, 0, 0, 5⟩),
   ([0x8041FC410110E005], .tsct h ⟨0x41, 2, 0x43, 1, 5⟩),
   ([0x8051FC0100000005], .tinfo h ⟨1, 0, 0, 0, 5⟩)] = true := by decide +kernel

theorem test_decode_queue : decodesTo
  [([0x9001FC4100700000], .qpush h ⟨0x41, 0, 7, 0, 0⟩),
   ([0x9011FC0000600000], .qpop h ⟨0, 0, 6, 0, 0⟩),
   ([0x9021FC000050F000], .qpeek h ⟨0, 0, 5, 0xF, 0⟩),
   ([0x9031FC0000400000], .qcnt h ⟨0, 0, 4, 0, 0⟩),
   ([0x9041FC0000310000], .qdrop h ⟨0, 0, 3, 0x10, 0⟩)] = true := by decide +kernel

theorem test_decode_sync : decodesTo
  [([0xA001FC0401800588], .amoAdd h ⟨4, 3, 0, 0, 5, 1, 8⟩),
   ([0xA011FC0401800D89], .amoMin h ⟨4, 3, 0, 1, 5, 1, 9⟩),
   ([0xA021FC0401801586], .amoMax h ⟨4, 3, 0, 2, 5, 1, 6⟩),
   ([0xA031FC0401801D87], .amoAnd h ⟨4, 3, 0, 3, 5, 1, 7⟩),
   ([0xA041FC0401802588], .amoOr h ⟨4, 3, 0, 4, 5, 1, 8⟩),
   ([0xA051FC0401800589], .amoXor h ⟨4, 3, 0, 0, 5, 1, 9⟩),
   ([0xA061FC0401800D86], .amoSwap h ⟨4, 3, 0, 1, 5, 1, 6⟩),
   ([0xA071FC040180A109], .amoCas h ⟨4, 3, 2, 4, 1, 0, 9⟩),
   ([0xA081FC0401801A92], .amoFadd h ⟨4, 3, 0, 3, 2, 1, 0x12⟩),
   ([0xA091FC040180800C], .amoMadd h ⟨4, 3, 2, 0, 0, 0, 0xC⟩),
   ([0xA0A1FC0000002500], .fence h ⟨0, 0, 0, 4, 5, 0, 0⟩),
   ([0xA0B1FC000001C301], .finc h ⟨0, 0, 7, 0, 3, 0, 1⟩),
   ([0xA0C1FC0520FFCA00], .fwait h ⟨5, 0x41, 0x1FF, 1, 2, 0, 0⟩),
   ([0xA0D1FC00003FD3FF], .fset h ⟨0, 0, 0xFF, 2, 3, 1, 0x7F⟩),
   ([0xA0E1FC0500602400], .fget h ⟨5, 0, 0x180, 4, 4, 0, 0⟩),
   ([0xA0F1FC0000000500], .sync h ⟨0, 0, 0, 0, 5, 0, 0⟩),
   ([0xA101FC00003FD280], .evset h ⟨0, 0, 0xFF, 2, 2, 1, 0⟩),
   ([0xA111FC0000200A00], .evwait h ⟨0, 0, 0x80, 1, 2, 0, 0⟩),
   ([0xA121FC0000006580], .evclr h ⟨0, 0, 1, 4, 5, 1, 0⟩)] = true := by decide +kernel

theorem test_decode_tile : decodesTo
  [([0xB001FC00000F0000], .tzero h ⟨0, 0, 0xF, 0⟩),
   ([0xB011FC03000E0000], .tfill h ⟨3, 0, 0xE, 0⟩),
   ([0xB021FC00000D003F], .trow h ⟨0, 0, 0xD, 0x3F⟩),
   ([0xB031FC03000C003E], .twrow h ⟨3, 0, 0xC, 0x3E⟩),
   ([0xB041FC00000B0000], .tbmap h ⟨0, 0, 0xB, 0⟩),
   ([0xB051FC0000000000], .lease h ⟨0, 0, 0, 0⟩),
   ([0xB061FC0000000000], .unlease h ⟨0, 0, 0, 0⟩),
   ([0xB071FC0000000000], .mwait h ⟨0, 0, 0, 0⟩),
   ([0xB081FC03000A0003], .tscl h ⟨3, 0, 0xA, 3⟩)] = true := by decide +kernel

theorem test_decode_record : decodesTo
  [([0xC001FC0000000001, 0x3F, 0x3120000000020000, 0, 0x3220000000000000, 0x10000, 0x3220000000010000, 0], .mmul h ⟨0, 0, 0, 0, 0, 0, 0, 0, 1, 0x3F, 0x3120000000020000, 0, 0x3220000000000000, 0x10000, 0x3220000000010000, 0⟩),
   ([0xC011FCA205000000, 0, 0x3120000000020000, 0, 0x3220000000000000, 0x10000, 0x3220000000010000, 0], .mmulc h ⟨0, 1, 2, 0, 1, 5, 0, 0, 0, 0, 0x3120000000020000, 0, 0x3220000000000000, 0x10000, 0x3220000000010000, 0⟩),
   ([0xC021FD3405030007, 0, 0x3120000000020000, 0, 0x3220000000000000, 0x10000, 0x3220000000010000, 0], .mmod h ⟨1, 0, 3, 0, 2, 5, 6, 0, 7, 0, 0x3120000000020000, 0, 0x3220000000000000, 0x10000, 0x3220000000010000, 0⟩),
   ([0xC031FC56050301C0, 0, 0x3120000000020000, 0, 0x3220000000000000, 0x10000, 0x3220000000010000, 0], .mtr h ⟨0, 0, 5, 0, 3, 5, 6, 7, 0, 0, 0x3120000000020000, 0, 0x3220000000000000, 0x10000, 0x3220000000010000, 0⟩),
   ([0xC101FDC800000000, 0x1000200030004, 0x27F0000000000100, 0x40, 0xFF0000000000000, 0x40, 0, 0], .cp h ⟨1, 1, 4, 1, 0, 0, 0, 0, 0, 0x1000200030004, 0x27F0000000000100, 0x40, 0xFF0000000000000, 0x40, 0, 0⟩),
   ([0xC111FC000000003F, 0x1000200030004, 0x27F0000000000100, 0x40, 0xFF0000000000000, 0x40, 0, 0], .cpcv h ⟨0, 0, 0, 0, 0, 0, 0, 0, 0x3F, 0x1000200030004, 0x27F0000000000100, 0x40, 0xFF0000000000000, 0x40, 0, 0⟩),
   ([0xC121FC0401010000, 0x1000200030004, 0x27F0000000000100, 0x40, 0xFF0000000000000, 0x40, 0, 0], .cpdz h ⟨0, 0, 0, 0, 2, 1, 2, 0, 0, 0x1000200030004, 0x27F0000000000100, 0x40, 0xFF0000000000000, 0x40, 0, 0⟩),
   ([0xC131FC0000000008, 0x1000200030004, 0x27F0000000000100, 0x40, 0xFF0000000000000, 0x40, 0, 0], .cpbk h ⟨0, 0, 0, 0, 0, 0, 0, 0, 8, 0x1000200030004, 0x27F0000000000100, 0x40, 0xFF0000000000000, 0x40, 0, 0⟩),
   ([0xC181FC0000000011, 0x1000200030004, 0x27F0000000000100, 0x40, 0xFF0000000000000, 0x40, 0, 0], .coll h ⟨0, 0, 0, 0, 0, 0, 0, 0, 0x11, 0x1000200030004, 0x27F0000000000100, 0x40, 0xFF0000000000000, 0x40, 0, 0⟩),
   ([0xC1C1FC0000000028, 0x1000200030004, 0x27F0000000000100, 0x40, 0xFF0000000000000, 0x40, 0, 0], .mig h ⟨0, 0, 0, 0, 0, 0, 0, 0, 0x28, 0x1000200030004, 0x27F0000000000100, 0x40, 0xFF0000000000000, 0x40, 0, 0⟩),
   ([0xC1D1FC000000000F, 0x1000200030004, 0x27F0000000000100, 0x40, 0xFF0000000000000, 0x40, 0, 0], .migrep h ⟨0, 0, 0, 0, 0, 0, 0, 0, 0xF, 0x1000200030004, 0x27F0000000000100, 0x40, 0xFF0000000000000, 0x40, 0, 0⟩),
   ([0xC1F1FCD000000001, 0x1234, 0, 0, 0, 0, 0, 0], .note h ⟨0, 1, 5, 0, 0, 0, 0, 0, 1, 0x1234, 0, 0, 0, 0, 0, 0⟩)] = true := by decide +kernel

theorem test_decode_system : decodesTo
  [([0xD001FC0500000000], .dawn h ⟨5, 0, 0, 0⟩),
   ([0xD011FC0500000000], .dusk h ⟨5, 0, 0, 0⟩),
   ([0xD021FC0500000000], .sweep h ⟨5, 0, 0, 0⟩),
   ([0xD031FC0500000000], .ctxsave h ⟨5, 0, 0, 0⟩),
   ([0xD041FC0500000000], .ctxrest h ⟨5, 0, 0, 0⟩),
   ([0xD091FC0500000000], .cutmark h ⟨5, 0, 0, 0⟩),
   ([0xD0A1FC0500000000], .pull h ⟨5, 0, 0, 0⟩),
   ([0xD0B1FC0500000000], .tdsync h ⟨5, 0, 0, 0⟩),
   ([0xD0F1FC0500000000], .part h ⟨5, 0, 0, 0⟩),
   ([0xD051FC0503000003], .tlbi h ⟨5, 6, 0, 3⟩),
   ([0xD061FC0523000000], .tcinv h ⟨5, 0x46, 0, 0⟩),
   ([0xD081FC05000001FE], .slotld h ⟨5, 0, 0, 0x1FE⟩),
   ([0xD071FC0000000000], .tret h ⟨0, 0, 0, 0⟩),
   ([0xD0C1FC0000000000], .idle h ⟨0, 0, 0, 0⟩),
   ([0xD0D1FC0000000000], .halt h ⟨0, 0, 0, 0⟩),
   ([0xD0E1FC0000000001], .rawEnter h ⟨0, 0, 0, 1⟩),
   ([0xD0E1FC0000000000], .rawLeave h ⟨0, 0, 0, 0⟩),
   ([0xD0E1FC0000000002], .rawLock h ⟨0, 0, 0, 2⟩)] = true := by decide +kernel

theorem test_decode_hint : decodesTo
  [([0xE001FC00000088FF], .nop h ⟨0, 0, 0, 0x88FF⟩),
   ([0xE021FC0000000007], .prio h ⟨0, 0, 0, 7⟩),
   ([0xE011FC0000000000, 0x123456789ABCDEF], .lit h ⟨0, 0, 0, 0⟩ 0x0123456789ABCDEF)] = true := by decide +kernel

/-! ## Scalar, immediate and modular results (05 R77-R86, 06 R95-R107, R151, R152), expected values by hand -/

/-- ^2, ^1 and ^3 are `a`, `b` and `c`. -/
def abc (a b : Word) (c : Word := 0) : State := tenant [.s b, .s a, .s c]
/-- Operands ^2, ^1, ^3 of a type. -/
def op2 (typ : BitVec 7) (clp : BitVec 2 := 0) (scl : BitVec 5 := 0) : FmtA := ⟨1, 0, 2, clp, scl, typ⟩

theorem test_add_wraps : gives (.add h (op2 8)) (abc (-1) 2) [.s 1] = true := by decide +kernel
theorem test_add_i32_extends : gives (.add h (op2 6)) (abc 0x7FFFFFFF 1) [.s 0xFFFFFFFF80000000] = true := by decide +kernel
theorem test_sub_saturates : gives (.sub h (op2 9 1)) (abc 1 2) [.s 0] = true := by decide +kernel
theorem test_sub_neg_operand : gives (.sub h ⟨1, 0x100, 0, 0, 0, 8⟩) (abc 5 3) [.s 8] = true := by decide +kernel
theorem test_mul_scales : gives (.mul h (op2 8 0 0x1F)) (abc 5 3) [.s 8] = true := by decide +kernel
theorem test_mul_f32 : gives (.mul h (op2 0x12)) (abc 0x40000000 0xC0400000) [.s 0xC0C00000] = true := by decide +kernel
theorem test_mulh_floor : gives (.mulh h (op2 8)) (abc (-1) 1) [.s (-1)] = true := by decide +kernel
theorem test_mulh_n32 : gives (.mulh h (op2 7)) (abc 0xFFFFFFFF 0xFFFFFFFF) [.s 0xFFFFFFFE] = true := by decide +kernel
theorem test_div_truncates : gives (.div h (op2 8)) (abc (-7) 2) [.s (-3)] = true := by decide +kernel
theorem test_div_f32_zero : gives (.div h (op2 0x12)) (abc 0x3F800000 0x80000000) [.s 0xFF800000] 8 = true := by decide +kernel
theorem test_rem_sign : gives (.rem h (op2 8)) (abc (-7) 2) [.s (-1)] = true := by decide +kernel
theorem test_rem_zero : gives (.rem h (op2 9)) (abc 7 0) [.s 7] = true := by decide +kernel
theorem test_mad_once : gives (.mad h (op2 8)) (abc (-3) 4 5) [.s (-7)] = true := by decide +kernel
theorem test_mad_fused : gives (.mad h (op2 0x12)) (abc 0x3F800001 0x3F800001 0xBF800002) [.s 0x28800000] = true := by decide +kernel
theorem test_and : gives (.and_ h (op2 9)) (abc 0xF0F0 0xFF00) [.s 0xF000] = true := by decide +kernel
theorem test_or : gives (.or_ h (op2 6)) (abc 0x80000000 1) [.s 0xFFFFFFFF80000001] = true := by decide +kernel
theorem test_xor : gives (.xor_ h (op2 7)) (abc 0xFFFFFFFF0F 0xFF) [.s 0xFFFFFFF0] = true := by decide +kernel
theorem test_andn : gives (.andn h (op2 9)) (abc 0xFF 0x0F) [.s 0xF0] = true := by decide +kernel
theorem test_shl_width : gives (.shl h (op2 7)) (abc 1 32) [.s 0] = true := by decide +kernel
theorem test_shl_i32 : gives (.shl h (op2 6)) (abc 1 31) [.s 0xFFFFFFFF80000000] = true := by decide +kernel
theorem test_shr_natural : gives (.shr h (op2 6)) (abc (-1) 4) [.s 0x0FFFFFFF] = true := by decide +kernel
theorem test_sar_past_width : gives (.sar h (op2 8)) (abc (-5) 200) [.s (-1)] = true := by decide +kernel
theorem test_rotl : gives (.rotl h (op2 7)) (abc 0x80000001 33) [.s 3] = true := by decide +kernel
theorem test_clz_zero : gives (.clz h ⟨1, 0, 0, 0, 0, 7⟩) (abc 0xFFFFFFFF00000000 0) [.s 32] = true := by decide +kernel
theorem test_ctz : gives (.ctz h ⟨1, 0, 0, 0, 0, 9⟩) (abc 0x50 0) [.s 4] = true := by decide +kernel
theorem test_popc : gives (.popc h ⟨1, 0, 0, 0, 0, 7⟩) (abc 0xFF0000000F 0) [.s 4] = true := by decide +kernel
theorem test_min_signed : gives (.min h (op2 8)) (abc (-1) 1) [.s (-1)] = true := by decide +kernel
theorem test_min_nan : gives (.min h (op2 0x12)) (abc 0x7FC00000 0x3F800000) [.s 0x3F800000] = true := by decide +kernel
theorem test_max_natural : gives (.max h (op2 9)) (abc (-1) 1) [.s (-1)] = true := by decide +kernel
theorem test_cmp3_unordered : gives (.cmp3 h (op2 0x12)) (abc 0x7FC00000 0) [.s 2] = true := by decide +kernel
theorem test_cmp3_zeros : gives (.cmp3 h (op2 0x12)) (abc 0x80000000 0) [.s 0] = true := by decide +kernel
theorem test_sel : gives (.sel h (op2 8)) (abc 7 9 0) [.s 9] = true := by decide +kernel
theorem test_bfx_n64 : gives (.bfx h (op2 9)) (abc 0xABCD1234 0x0C08) [.s 3346] = true := by decide +kernel
theorem test_bfx_i64 : gives (.bfx h (op2 8)) (abc 0xABCD1234 0x0C08) [.s (-750)] = true := by decide +kernel
theorem test_bfi : gives (.bfi h (op2 7)) (abc 0 0x1FF 0x0818) [.s 0xFF000000] = true := by decide +kernel
theorem test_bnet_zero_pattern : gives (.bnet h ⟨1, 0, 0, 0, 0, 3⟩) (abc 1 0) [.s (-1)] = true := by decide +kernel
theorem test_cvt_saturates : gives (.cvt h ⟨1, 0x12, 0, 0, 0, 6⟩) (abc 0x4F800000 0) [.s 0x7FFFFFFF] 16 = true := by decide +kernel
theorem test_cvt_to_f32 : gives (.cvt h ⟨1, 8, 0, 0, 0, 0x12⟩) (abc (-3) 0) [.s 0xC0400000] = true := by decide +kernel
theorem test_sqrt : gives (.sqrt h ⟨1, 0, 0, 0, 0, 0x12⟩) (abc 0x40800000 0) [.s 0x40000000] = true := by decide +kernel
theorem test_sqrt_negative : gives (.sqrt h ⟨1, 0, 0, 0, 0, 0x12⟩) (abc 0xBF800000 0) [.s 0x7FC00000] 16 = true := by decide +kernel
theorem test_lea : gives (.lea h (op2 6)) (abc 0x100 3) [.s 0x10C] = true := by decide +kernel
theorem test_mov_abs : gives (.mov h ⟨0x081, 0, 0, 0, 0, 8⟩) (abc (-9) 0) [.s 9] = true := by decide +kernel

theorem test_li : gives (.li h ⟨0, 0x80000000⟩) (abc 0 0) [.s 0xFFFFFFFF80000000] = true := by decide +kernel
theorem test_lf : gives (.lf h ⟨0, 0x80000000⟩) (abc 0 0) [.s 0x80000000] = true := by decide +kernel
theorem test_lih : gives (.lih h ⟨1, 0x12345678⟩) (abc 0x1FFFFFFFF 0) [.s 0xFFFFFFFF12345678] = true := by decide +kernel
theorem test_addi : gives (.addi h ⟨1, 0xFFFFFFFF⟩) (abc 5 0) [.s 4] = true := by decide +kernel
theorem test_andi : gives (.andi h ⟨1, 0xFFFFFFF0⟩) (abc (-1) 0) [.s (-16)] = true := by decide +kernel
theorem test_ori : gives (.ori h ⟨1, 0x80000000⟩) (abc 1 0) [.s 0x80000001] = true := by decide +kernel
theorem test_xori : gives (.xori h ⟨1, 0xFFFFFFFF⟩) (abc (-1) 0) [.s 0xFFFFFFFF00000000] = true := by decide +kernel
theorem test_shli : gives (.shli h ⟨1, 64⟩) (abc 1 0) [.s 0] = true := by decide +kernel
theorem test_shri : gives (.shri h ⟨1, 60⟩) (abc (-1) 0) [.s 15] = true := by decide +kernel
theorem test_sari : gives (.sari h ⟨1, 99⟩) (abc (-8) 0) [.s (-1)] = true := by decide +kernel

/-- Modulus slot 2 holds 17. -/
def mod17 (a b c : Word) : State := onTh (abc a b c) fun t => { t with mods := [(2, 17)] }
/-- Operands ^2, ^1, ^3 with modulus slot 2. -/
def opM : FmtA := ⟨1, 0, 2, 0, 2, 0x0C⟩
theorem test_mqadd : gives (.mqadd h opM) (mod17 9 10 0) [.s 2] = true := by decide +kernel
theorem test_mqsub : gives (.mqsub h opM) (mod17 3 10 0) [.s 10] = true := by decide +kernel
theorem test_mqmul : gives (.mqmul h opM) (mod17 5 7 0) [.s 1] = true := by decide +kernel
theorem test_mqmac : gives (.mqmac h opM) (mod17 5 7 20) [.s 4] = true := by decide +kernel
theorem test_mqred_neg : gives (.mqred h ⟨0x101, 0, 0, 0, 2, 0x0C⟩) (mod17 1 0 0) [.s 16] = true := by decide +kernel
theorem test_mqbct : gives (.mqbct h opM) (mod17 1 2 9) [.s 2, .s 0] = true := by decide +kernel
theorem test_mqbgs : gives (.mqbgs h opM) (mod17 1 2 3) [.s 3, .s 14] = true := by decide +kernel
theorem test_mqadd_invalid : gives (.mqadd h ⟨1, 0, 0, 0, 5, 0x0C⟩) (mod17 9 10 0) [.s 0] 32 = true := by decide +kernel
theorem test_mqset : leaves (.mqset h ⟨1, 0, 0, 0, 5, 0x0C⟩) (mod17 19 0 0) (fun t => t.th.mods == [(2, 17), (5, 19)]) = true := by
  decide +kernel

/-! ## Vector results (05 R81-R87, 06 R109-R122), expected values by hand or from the worked examples -/

/-- A vector whose low lanes of `w` bits are these and the others zero. -/
def vec (w : Nat) (l : List Nat) : Val := .v (BitVec.ofNat 4096 (l.foldr (fun e acc => e + 2 ^ w * acc) 0))
/-- The instruction appends one vector with these lanes of `w` bits. -/
def lanes (i : Instr) (s : State) (w : Nat) (l : List (Nat × Nat)) (fl : Nat := 0) : Bool :=
  leaves i s fun t => t.th.window.drop 1 == s.th.window && t.th.fpstat == BitVec.ofNat 6 fl
    && match t.th.window with
      | .v v :: _ => l.all fun e => lane w v e.1 == e.2
      | _ => false
/-- ^2, ^1 and ^3 are vectors of lanes of `w` bits. -/
def vab (w : Nat) (a b : List Nat) (c : List Nat := []) : State := tenant [vec w b, vec w a, vec w c]

theorem test_vadd_sat_scl : lanes (.vadd h (op2 2 1 0x1E)) (vab 8 [100, 0xF7] [110, 0xFF]) 8 [(0, 52), (1, 0xFE)] = true := by
  decide +kernel
theorem test_vadd_nibbles : lanes (.vadd h (op2 0)) (vab 4 [7, 15] [1, 15]) 4 [(0, 8), (1, 14)] = true := by decide +kernel
theorem test_vsub_f16 : lanes (.vsub h (op2 0x10)) (vab 16 [0x3C00] [0x4000]) 16 [(0, 0xBC00), (1, 0)] = true := by decide +kernel
theorem test_vmul_sat_scl : lanes (.vmul h (op2 2 1 0x1E)) (vab 8 [127] [127]) 8 [(0, 127), (1, 0)] = true := by decide +kernel
theorem test_vmul_wraps_scl : lanes (.vmul h (op2 2 0 0x1E)) (vab 8 [127] [127]) 8 [(0, 192)] = true := by decide +kernel
theorem test_vmulh : lanes (.vmulh h (op2 2)) (vab 8 [0xFF] [1]) 8 [(0, 0xFF), (1, 0)] = true := by decide +kernel
theorem test_vmad : lanes (.vmad h (op2 6)) (vab 32 [3, 0xFFFFFFFF] [4, 2] [5, 1]) 32 [(0, 17), (1, 0xFFFFFFFF)] = true := by
  decide +kernel
theorem test_vmin : lanes (.vmin h (op2 2)) (vab 8 [0x80] [1]) 8 [(0, 0x80)] = true := by decide +kernel
theorem test_vmax : lanes (.vmax h (op2 2)) (vab 8 [0x80] [1]) 8 [(0, 1)] = true := by decide +kernel
theorem test_vand : lanes (.vand h (op2 5)) (vab 16 [0xF0F0] [0xFF00]) 16 [(0, 0xF000)] = true := by decide +kernel
theorem test_vor : lanes (.vor h (op2 5)) (vab 16 [0xF0F0] [0xFF00]) 16 [(0, 0xFFF0)] = true := by decide +kernel
theorem test_vxor : lanes (.vxor h (op2 5)) (vab 16 [0xF0F0] [0xFF00]) 16 [(0, 0x0FF0)] = true := by decide +kernel
theorem test_vshl : lanes (.vshl h (op2 3)) (vab 8 [0x81, 1] [1, 8]) 8 [(0, 2), (1, 0)] = true := by decide +kernel
theorem test_vshr : lanes (.vshr h (op2 2)) (vab 8 [0x81, 0x80] [1, 0xFF]) 8 [(0, 0x40), (1, 0)] = true := by decide +kernel
theorem test_vsar : lanes (.vsar h (op2 2)) (vab 8 [0x81, 0x80] [1, 0xFF]) 8 [(0, 0xC0), (1, 0xFF)] = true := by decide +kernel
theorem test_vsel : lanes (.vsel h (op2 3)) (vab 8 [1, 1] [2, 2] [0, 7]) 8 [(0, 2), (1, 1)] = true := by decide +kernel
theorem test_vdiv : lanes (.vdiv h (op2 6)) (vab 32 [0xFFFFFFF9, 5] [2, 0]) 32 [(0, 0xFFFFFFFD), (1, 0xFFFFFFFF)] = true := by
  decide +kernel
theorem test_vsqrt : lanes (.vsqrt h ⟨1, 0, 0, 0, 0, 0x12⟩) (vab 32 [0x40800000, 0x80000000] []) 32
    [(0, 0x40000000), (1, 0x80000000)] = true := by decide +kernel
theorem test_vrcp : lanes (.vrcp h ⟨1, 0, 0, 0, 0, 0x12⟩) (vab 32 [0x40000000, 0x80000000] []) 32
    [(0, 0x3F000000), (1, 0xFF800000), (2, 0x7F800000)] 8 = true := by decide +kernel
theorem test_vrsqrt : lanes (.vrsqrt h ⟨1, 0, 0, 0, 0, 0x12⟩) (vab 32 [0x40800000, 0xFF800000] []) 32
    [(0, 0x3F000000), (1, 0x7FC00000)] 24 = true := by decide +kernel
theorem test_vexp2 : lanes (.vexp2 h ⟨1, 0, 0, 0, 0, 0x12⟩) (vab 32 [0x40400000, 0xFF800000] []) 32
    [(0, 0x41000000), (1, 0), (2, 0x3F800000)] = true := by decide +kernel
theorem test_vlog2 : lanes (.vlog2 h ⟨1, 0, 0, 0, 0, 0x12⟩) (vab 32 [0x41000000] []) 32
    [(0, 0x40400000), (1, 0xFF800000)] 8 = true := by decide +kernel
theorem test_vcvt : lanes (.vcvt h ⟨1, 0x10, 0, 0, 0, 4⟩) (vab 16 [0x4100, 0x7C00] []) 16 [(0, 2), (1, 0x7FFF)] 17 = true := by
  decide +kernel
theorem test_vwid_order : leaves (.vwid h ⟨1, 6, 0, 0, 0, 8⟩) (vab 32 [0, 0xFFFFFFFF, 2, 3] []) (fun t =>
    (t.th.window.take 2) == [vec 64 [0xFFFFFFFFFFFFFFFF, 3], vec 64 [0, 2]]) = true := by decide +kernel
theorem test_vpack_order : lanes (.vpack h ⟨0, 4, 0, 0, 0, 2⟩) (vab 16 [0, 300] [0xFFFF, 3]) 8
    [(0, 0), (1, 0xFF), (2, 127), (3, 3)] 16 = true := by decide +kernel
theorem test_vcvtsr : lanes (.vcvtsr h ⟨1, 0, 0, 0, 0, 0x11⟩) (tenant [vec 16 [0x7FFF, 0x8000], vec 32 [0x3F808000], vec 32 [0x3F808000]])
    16 [(0, 0x3F80), (1, 0x3F81)] 1 = true := by decide +kernel
theorem test_vred : leaves (.vred h ⟨1, 0, 0, 0, 0, 0x12⟩) (vab 32 [0x3F800000, 0x33800000, 0x33800000] []) (fun t =>
    t.th.window.take 1 == [.s 0x3F800001] && t.th.fpstat == 0) = true := by decide +kernel
theorem test_vscan : lanes (.vscan h ⟨1, 0, 0, 0, 0, 9⟩) (vab 64 [0xFFFFFFFFFFFFFFF0, 100, 1] []) 64
    [(0, 0xFFFFFFFFFFFFFFF0), (1, 84), (2, 85), (63, 85)] = true := by
  decide +kernel
theorem test_vperm : lanes (.vperm h (op2 4)) (vab 16 [5, 6] [1, 256, 512] [9]) 16 [(0, 6), (1, 9), (2, 0), (3, 5)] = true := by
  decide +kernel
theorem test_vbcast : lanes (.vbcast h ⟨1, 0, 0, 0, 0, 4⟩) (tenant [.s 1, vec 16 [3, 4]]) 16 [(0, 4), (255, 4)] = true := by decide +kernel
theorem test_vslide : lanes (.vslide h (op2 0x09)) (tenant [.s 63, vec 64 [3, 4], vec 64 [7]]) 64 [(0, 0), (1, 7), (2, 0)] = true := by
  decide +kernel
theorem test_vtrn : leaves (.vtrn h (op2 6)) (vab 32 [1, 2, 3, 4] [5, 6, 7, 8]) (fun t =>
    t.th.window.take 2 == [vec 32 [2, 6, 4, 8], vec 32 [1, 5, 3, 7]]) = true := by decide +kernel
theorem test_vmxq : leaves (.vmxq h ⟨1, 0x12, 0, 0, 0, 0x22⟩) (vab 32 [0x40400000, 0xBF400000, 0x3DCCCCCD] []) (fun t =>
    t.th.window.take 2 == [.s 0x80, vec 8 [0x60, 0xE8, 3]] && t.th.fpstat == 1) = true := by decide +kernel
theorem test_vmxdq : lanes (.vmxdq h ⟨1, 0, 0x22, 0, 0, 0x12⟩) (tenant [.s 0x80, vec 8 [0x60, 0xE8, 3]]) 32
    [(0, 0x40400000), (1, 0xBF400000), (2, 0x3DC00000)] = true := by decide +kernel
theorem test_vbmap : leaves (.vbmap h ⟨1, 0, 0, 0, 0, 2⟩) (tenant [.s 0xFFFFFFFFFFFFFFF7, vec 8 [0, 0, 0, 0, 0, 0, 0, 1]]) (fun t =>
    t.th.window.take 1 == [.s 0xFFFFFFFFFFFFFFF6]) = true := by decide +kernel
theorem test_vbnet : lanes (.vbnet h ⟨1, 0, 0, 0, 0, 3⟩) (vab 64 [1, 2] []) 64 [(0, 0xFFFFFFFFFFFFFFFF), (1, 0)] = true := by
  decide +kernel
theorem test_vpopc : lanes (.vpopc h ⟨1, 0, 0, 0, 0, 3⟩) (vab 8 [0x55, 0xFF] []) 8 [(0, 4), (1, 8), (2, 0)] = true := by decide +kernel
theorem test_vclz : lanes (.vclz h ⟨1, 0, 0, 0, 0, 5⟩) (vab 16 [1, 0] []) 16 [(0, 15), (1, 16)] = true := by decide +kernel
theorem test_vdot4 : lanes (.vdot4 h (op2 2)) (tenant [vec 8 [1, 1, 1, 1, 2], vec 8 [1, 2, 3, 0xFF, 5], vec 32 [10]]) 32
    [(0, 15), (1, 10), (2, 0)] = true := by decide +kernel
theorem test_vmov_clamps : lanes (.vmov h ⟨1, 0, 0, 3, 0, 0x12⟩) (vab 32 [0x40000000, 0xBF800000] []) 32
    [(0, 0x3F800000), (1, 0)] = true := by decide +kernel
theorem test_vli : lanes (.vli h ⟨0, 0, 0, 0, 0, 2⟩) (tenant [.s 126]) 8 [(0, 126), (1, 127), (2, 128)] = true := by decide +kernel

/-! ## State, control and hint instructions (04 R52-R56, 12 R231-R242) -/

/-- Slots, predicates and a frame in the current thread. -/
def filled : State := onTh (tenant [.s 5, vec 64 [9], .s 3]) fun t => { t with
  sslots := [(4, 77)], vslots := [(6, BitVec.ofNat 4096 8)], preds := [(1, 0b0110), (2, 0b0101)],
  frames := [{ ret := 0x2000, window := [.s 1, .s 2] }] }

theorem test_sget : gives (.sget h ⟨0, 0, 0, 4⟩) filled [.s 77] = true := by decide +kernel
theorem test_sput : leaves (.sput h ⟨0, 0, 4, 0⟩) filled (fun t => t.th.sslots == [(4, 5)] && t.th.pc == 0x1008) = true := by
  decide +kernel
theorem test_sput_vector : traps (.sput h ⟨1, 0, 4, 0⟩) filled 0x02 = true := by decide +kernel
theorem test_vget : gives (.vget h ⟨0, 0, 0, 6⟩) filled [.v (BitVec.ofNat 4096 8)] = true := by decide +kernel
theorem test_vput_broadcast : leaves (.vput h ⟨0, 0, 6, 0⟩) filled (fun t =>
    t.th.vslots == [(6, BitVec.ofNat 4096 (5 * ((2 ^ 4096 - 1) / (2 ^ 64 - 1))))]) = true := by decide +kernel
theorem test_keep : gives (.keep h ⟨1, 0, 0, 2⟩) filled [.s 3, vec 64 [9]] = true := by decide +kernel
theorem test_keep_past_window : traps (.keep h ⟨1, 0, 0, 3⟩) filled 0x03 = true := by decide +kernel
theorem test_pcmp_scalars : leaves (.pcmp h ⟨2, 0, 1, 0x082⟩) filled (fun t => t.th.preds == [(1, BitVec.allOnes 1024), (2, 5)]) = true := by
  decide +kernel
theorem test_pcmp_lanes : leaves (.pcmp h ⟨1, 0, 3, 0x084⟩) filled (fun t => tget t.th.preds 3 0 == 1) = true := by decide +kernel
theorem test_pset : leaves (.pset h ⟨0, 0, 2, 0⟩) filled (fun t => t.th.preds == [(1, 6)]) = true := by decide +kernel
theorem test_pand : leaves (.pand h ⟨0, 0, 3, 0x0201⟩) filled (fun t => tget t.th.preds 3 0 == 4) = true := by decide +kernel
theorem test_por : leaves (.por h ⟨0, 0, 3, 0x0201⟩) filled (fun t => tget t.th.preds 3 0 == 7) = true := by decide +kernel
theorem test_pxor : leaves (.pxor h ⟨0, 0, 3, 0x0201⟩) filled (fun t => tget t.th.preds 3 0 == 3) = true := by decide +kernel
theorem test_pnot : leaves (.pnot h ⟨0, 0, 3, 1⟩) filled (fun t => tget t.th.preds 3 0 == ~~~6) = true := by decide +kernel
theorem test_pmov : leaves (.pmov h ⟨0, 0, 3, 1⟩) filled (fun t => tget t.th.preds 3 0 == 6) = true := by decide +kernel
theorem test_pany : gives (.pany h ⟨0, 0, 0, 1⟩) filled [.s 1] = true := by decide +kernel
theorem test_csrr_gen : gives (.csrr h ⟨0, 0, 0, 0x20⟩) (tenant []) [.s 0x1000103] = true := by decide +kernel
theorem test_csrr_target_tenant : gives (.csrr h ⟨0, 0, 0, 0x40⟩) (tenant []) [.s 0] = true := by decide +kernel
theorem test_csrw_fpstat : leaves (.csrw h ⟨0, 0, 0, 1⟩) (onTh (tenant [.s 1]) fun t => { t with fpstat := 3 })
    (fun t => t.th.fpstat == 2) = true := by decide +kernel
theorem test_csrw_target : leaves (.csrw h ⟨0, 0, 0, 0x40⟩) (service [.s 0xFFFFFFFFFFFFFFFF])
    (fun t => (t.die 0).target == 0x1013F0F) = true := by decide +kernel
theorem test_gen : gives (.gen h ⟨0, 0, 0, 0⟩) (tenant []) [.s 0x103] = true := by decide +kernel
theorem test_guard_off : gives (.add ⟨0, 2, 1⟩ (op2 8)) (onTh (abc 3 4) fun t => { t with preds := [(2, 1)] }) [.s 0] = true := by
  decide +kernel

theorem test_jmp : leaves (.jmp h ⟨0, 2, 0, 0xFFFFFE⟩) filled (fun t => t.th.pc == 0xFF0 && t.th.window == [.s 5, vec 64 [9]]) = true := by
  decide +kernel
theorem test_brt_not_taken : gives (.brt h ⟨0, 0, 0, 4⟩) (tenant [.s 0]) [] = true := by decide +kernel
theorem test_brf_taken : leaves (.brf h ⟨0, 0, 0, 4⟩) (tenant [.s 0]) (fun t => t.th.pc == 0x1020 && t.th.window == []) = true := by
  decide +kernel
theorem test_call : leaves (.call h ⟨0, 1, 0, 2⟩) (tenant [.s 7, .s 8]) (fun t => t.th.pc == 0x1010 && t.th.window == [.s 7]
    && t.th.frames == [{ ret := 0x1008, window := [.s 7, .s 8], tag := 0x103 }]) = true := by decide +kernel
theorem test_ret : leaves (.ret h ⟨0, 1, 0, 0⟩) filled (fun t => t.th.pc == 0x2000 && t.th.window == [.s 5, .s 1, .s 2]
    && t.th.frames == []) = true := by decide +kernel
theorem test_jmpi_misaligned : traps (.jmpi h ⟨0, 0, 0, 0⟩) filled 0x14 = true := by decide +kernel
theorem test_calli_skips_target : leaves (.calli h ⟨1, 2, 0, 0⟩) (tenant [.s 7, .s 0x3000, .s 9]) (fun t =>
    t.th.pc == 0x3000 && t.th.window == [.s 7, .s 9]) = true := by decide +kernel
/-- Inside a loop of 3 iterations and 2 stages, at kernel iteration `k`. -/
def looping (k : Nat) : State := onTh (tenant [.s 7, .s 8]) fun t => { t with
  loop := some { loopPc := 0x0F00, lendPc := 0x1000, trip := 3, stages := 2, k, v := 1, outer := [.s 1] } }
theorem test_lend_back : leaves (.lend h ⟨0, 1, 1, 0xFFFFE0⟩) (looping 2) (fun t => t.th.pc == 0x0F00
    && t.th.window == [.s 7, .s 8]) = true := by decide +kernel
theorem test_lend_exit : leaves (.lend h ⟨0, 1, 1, 0xFFFFE0⟩) (looping 3) (fun t => t.th.pc == 0x1008
    && t.th.window == [.s 7, .s 1] && t.th.loop == none) = true := by decide +kernel
theorem test_lidx : gives (.lidx h ⟨0, 0, 0, 1⟩) (looping 0) [.s (-1)] = true := by decide +kernel
theorem test_stage_off : gives (.li ⟨1, 127, 0⟩ ⟨0, 5⟩) (looping 0) [.s 0] = true := by decide +kernel
theorem test_loop_unpaired : traps (.loop h ⟨0, 0, 0, 2⟩) (tenant [.s 1]) 0x01 = true := by decide +kernel
theorem test_done : leaves (.done h ⟨0, 0, 0, 0⟩) (tenant [.s 1]) (fun t => t.th.status == .done && t.th.window == []) = true := by
  decide +kernel
theorem test_brk : traps (.brk h ⟨0, 0, 0, 0x12⟩) (tenant []) 0x31 = true := by decide +kernel
theorem test_trap_info : leaves (.trap h ⟨0, 0, 0, 0x12⟩) (tenant []) (fun t => t.th.trapinfo == 0x120030 && t.th.seq == 1) = true := by
  decide +kernel
theorem test_alive : gives (.alive h ⟨0, 0, 0, 0⟩) (tenant []) [] = true := by decide +kernel
theorem test_nop : gives (.nop h ⟨0, 0, 0, 0⟩) (tenant []) [] = true := by decide +kernel
theorem test_lit : leaves (.lit h ⟨0, 0, 0, 0⟩ 0x1234) (tenant []) (fun t => t.th.window == [.s 0x1234] && t.th.pc == 0x1010) = true := by
  decide +kernel
theorem test_prio : leaves (.prio h ⟨0, 0, 0, 5⟩) (tenant []) (fun t => t.th.hint == 5) = true := by decide +kernel

/-! ## Memory, queue, synchronisation and tile instructions (10 R179-R208; 07 R131-R137) -/

/-- The near store of core 0 holds 0x81, 0x02 at offsets 64 and 65, of the tenant's generation; bank memory is bounded. -/
def nearOf (s : State) : State :=
  let near : Memory := { cells := [(64, 0x81), (65, 2)], tags := [(1, 0x103)] }
  s.setCore 0 { s.core 0 with near }
/-- The byte of core 0's near store as the tenant reads it. -/
def nearByte (t : State) (a : Nat) : Byte := readByte t { tag := 0x103 } (.near 0) a
/-- Base of the near store. -/
def base : Val := .s 0xF00000000040

theorem test_ldi_extends : gives (.ldi h ⟨0, 0, 0, 0, 0, 0, 0, 0⟩) (nearOf (tenant [base])) [.s (-127)] = true := by decide +kernel
theorem test_ldn_little_endian : gives (.ldn h ⟨0, 0, 1, 0, 0, 0, 0, 0⟩) (nearOf (tenant [base])) [.s 0x281] = true := by decide +kernel
theorem test_ldn_displacement : gives (.ldn h ⟨0, 0, 2, 0, 0, 0, 0, 0xFFC⟩) (nearOf (tenant [.s 0xF00000000044])) [.s 0x281] = true := by
  decide +kernel
theorem test_ldn_misaligned : traps (.ldn h ⟨0, 0, 1, 0, 0, 0, 0, 1⟩) (nearOf (tenant [base])) 0x14 = true := by decide +kernel
theorem test_ldv : gives (.ldv h ⟨0, 0, 4, 0, 0, 0, 0, 0⟩) (nearOf (tenant [base])) [.v 0x281] = true := by decide +kernel
theorem test_st_low_bytes : leaves (.st h ⟨0, 1, 1, 0, 0, 0, 0, 2⟩) (nearOf (tenant [base, .s 0xABCDEF])) (fun t =>
    nearByte t 66 == 0xEF && nearByte t 67 == 0xCD && nearByte t 68 == 0 && nearByte t 64 == 0x81) = true := by decide +kernel
theorem test_stv : leaves (.stv h ⟨0, 1, 4, 0, 0, 0, 0, 0⟩) (nearOf (tenant [base, vec 8 [1, 2, 3]])) (fun t =>
    nearByte t 64 == 1 && nearByte t 66 == 3 && nearByte t 127 == 0) = true := by decide +kernel
theorem test_pref : gives (.pref h ⟨0, 0, 0, 0, 0, 0, 0, 0⟩) (tenant [.s (-1)]) [] = true := by decide +kernel
theorem test_seal_flat_refused : traps (.seal h ⟨0, 0, 0, 0, 0, 0, 0, 0⟩) (tenant [.s 0]) 0x11 = true := by decide +kernel
theorem test_ldq_entry : leaves (.ldq h ⟨0, 3, 5, 0, 0, 0, 0, 0⟩) (accessor [.s 0xF00000000000]) (fun t =>
    (tget (t.core 0).queues 3 []).length == 1 && t.th.pc == 0x1008) = true := by decide +kernel
theorem test_bnld : leaves (.bnld h ⟨0, 0, 5, 0⟩) (nearOf (tenant [base])) (fun t => tget (t.core 0).patterns 5 {} ==
    { bits := 0x281, tag := 0x103 }) = true := by decide +kernel

/-- Queue 2 of core 0 holds two entries. -/
def queued (s : State) : State := s.setCore 0 { s.core 0 with
  queues := [(2, [{ data := 11, tag := 0x103 }, { data := 22, tag := 0x103 }])], nextPush := 2 }
theorem test_qpush : leaves (.qpush h ⟨0, 0, 2, 0, 0⟩) (queued (accessor [vec 64 [5]])) (fun t =>
    ((tget (t.core 0).queues 2 []).map (·.data)) == [11, 22, 5]) = true := by decide +kernel
theorem test_qpush_execute : traps (.qpush h ⟨0, 0, 2, 0, 0⟩) (queued (tenant [vec 64 [5]])) 0x22 = true := by decide +kernel
theorem test_qpop_oldest : leaves (.qpop h ⟨0, 0, 2, 0, 0⟩) (queued (tenant [])) (fun t => t.th.window == [.v 11]
    && ((tget (t.core 0).queues 2 []).map (·.data)) == [22]) = true := by decide +kernel
theorem test_qpeek_depth : gives (.qpeek h ⟨0, 0, 2, 1, 0⟩) (queued (tenant [])) [.v 22] = true := by decide +kernel
theorem test_qdrop : leaves (.qdrop h ⟨0, 0, 2, 2, 0⟩) (queued (tenant [])) (fun t => (tget (t.core 0).queues 2 []).length == 0) = true := by
  decide +kernel
/-- The access thread counts what it has pushed in this cycle, the execute thread does not (R194). -/
theorem test_qcnt_own :
    let q := fun (s : State) => s.setCore 0 { s.core 0 with queues := [(2, [{ tag := 0x103, pushed := s.cycle + 1 }])] }
    gives (.qcnt h ⟨0, 0, 2, 0, 0⟩) (q (accessor [])) [.s 0x101] && gives (.qcnt h ⟨0, 0, 2, 0, 0⟩) (q (tenant [])) [.s 0] = true := by
  decide +kernel
theorem test_qcnt : gives (.qcnt h ⟨0, 0, 2, 0, 0⟩) (queued (tenant [])) [.s 0x202] = true := by decide +kernel

/-- An atomic on the 8 bytes at offset 64, where 0x281 stands, with operand 5 and, for three operands, `c`. -/
def amo (c : Word := 0) : State := nearOf (tenant [.s c, .s 5, base])
def amo64 (f : Hdr → FmtY → Instr) (ty : BitVec 7) : Instr := f h ⟨2, 1, 0, 0, 0, 0, ty⟩
/-- It appends the old value and leaves the new one in bytes 64 and 65. -/
def swaps (i : Instr) (s : State) (v : Nat) : Bool := leaves i s fun t => t.th.window.head? == some (.s 0x281)
  && nearByte t 64 == BitVec.ofNat 8 v && nearByte t 65 == BitVec.ofNat 8 (v / 256)
theorem test_amo_add : swaps (amo64 .amoAdd 9) (amo) 0x286 = true := by decide +kernel
theorem test_amo_min : swaps (amo64 .amoMin 8) (amo) 5 = true := by decide +kernel
theorem test_amo_max : swaps (amo64 .amoMax 7) (amo) 0x281 = true := by decide +kernel
theorem test_amo_and : swaps (amo64 .amoAnd 9) (amo) 1 = true := by decide +kernel
theorem test_amo_or : swaps (amo64 .amoOr 9) (amo) 0x285 = true := by decide +kernel
theorem test_amo_xor : swaps (amo64 .amoXor 9) (amo) 0x284 = true := by decide +kernel
theorem test_amo_swap : swaps (amo64 .amoSwap 9) (amo) 5 = true := by decide +kernel
theorem test_amo_cas_fails : swaps (amo64 .amoCas 9) (amo 9) 0x281 = true := by decide +kernel
theorem test_amo_fadd : swaps (amo64 .amoFadd 0x12) (amo) 0x286 = true := by decide +kernel
theorem test_amo_madd : swaps (amo64 .amoMadd 0x0C) (amo 7) 2 = true := by decide +kernel
theorem test_fence : gives (.fence h ⟨0, 0, 0, 3, 5, 0, 0⟩) (tenant []) [] = true := by decide +kernel
theorem test_sync_alone : gives (.sync h ⟨0, 0, 0, 0, 3, 0, 0⟩) (tenant []) [] = true := by decide +kernel
theorem test_finc : leaves (.finc h ⟨0, 0, 7, 0, 1, 0, 3⟩) (tenant []) (fun t => flagValue t { tag := 0x103 } 0 7 == 3) = true := by
  decide +kernel
theorem test_fset_operand : leaves (.fset h ⟨0, 0, 7, 0, 1, 0, 0⟩) (tenant [.s 0x1FFFFFFFF]) (fun t =>
    flagValue t { tag := 0x103 } 0 7 == 0xFFFFFFFF) = true := by decide +kernel
theorem test_fwait_waits : leaves (.fwait h ⟨0, 0, 7, 0, 1, 0, 1⟩) (tenant []) (fun t => t.th.status == .waiting (.flag 0 7 1 0 1)
    && t.th.pc == 0x1000) = true := by decide +kernel
theorem test_fget : gives (.fget h ⟨0, 0, 7, 0, 1, 0, 0⟩) (tenant []) [.s 0] = true := by decide +kernel
theorem test_fget_foreign_group : traps (.fget h ⟨0, 0, 0x107, 0, 1, 0, 0⟩) (tenant [.s 5]) 0x15 = true := by decide +kernel
theorem test_evset : leaves (.evset h ⟨0, 0, 9, 0, 4, 0, 0⟩) (tenant []) (fun t => eventBit t 1 9 && !eventBit t 1 8) = true := by
  decide +kernel
theorem test_evwait : leaves (.evwait h ⟨0, 0, 9, 0, 4, 0, 0⟩) (tenant []) (fun t => t.th.status == .waiting (.event 9 0 4)) = true := by
  decide +kernel
theorem test_evclr : leaves (.evclr h ⟨0, 0, 9, 0, 4, 0, 0⟩) ((tenant []).setPart 1 { (tenant []).part 1 with
    events := [(9, { bit := true, tag := 0x103 })] }) (fun t => !eventBit t 1 9) = true := by decide +kernel

/-- A byte of tile 2 of core 0 as the tenant reads it. -/
def tileByte (t : State) (o : Nat) : Byte := readByte t { tag := 0x103 } (.tiles 0) (2 * 0x8880 + o)
theorem test_tzero : leaves (.tzero h ⟨0, 0, 2, 0⟩) (tenant []) (fun t => tileByte t 0x8800 == 0xFF && tileByte t 0 == 0) = true := by
  decide +kernel
theorem test_trow : gives (.trow h ⟨0, 0, 2, 3⟩) (tenant []) [.v 0] = true := by decide +kernel
theorem test_tdset : leaves (.tdset h ⟨0, 0, 2, 0⟩) (tenant [.s (-1)]) (fun t => tileByte t 0x8840 == 0x7F && tileByte t 0x8843 == 7) = true := by
  decide +kernel
theorem test_tdget : gives (.tdget h ⟨0, 0, 2, 0⟩) (tenant []) [.s 0] = true := by decide +kernel
theorem test_lease_waits : leaves (.lease h ⟨0, 0, 0, 0⟩) (tenant []) (fun t => t.th.status == .waiting .lease
    && (t.core 0).lease.claim) = true := by decide +kernel
theorem test_unlease : gives (.unlease h ⟨0, 0, 0, 0⟩) (tenant []) [] = true := by decide +kernel
theorem test_mwait : gives (.mwait h ⟨0, 0, 0, 0⟩) (tenant []) [] = true := by decide +kernel
theorem test_tinfo_query : gives (.tinfo h ⟨0, 0, 0, 0, 5⟩) (tenant [.s 9]) [.s (-1)] = true := by decide +kernel
theorem test_tld_no_tensor : traps (.tld h ⟨0, 0, 0, 0, 5⟩) (tenant [.s 0]) 0x13 = true := by decide +kernel

/-! ## Witnesses: for each statement a state and operands that meet its hypotheses, with boundary values of its clauses -/

theorem tables_tenant (w : List Val) : TablesOk (tenant w) ∧ MemWf (tenant w) := by
  simp [TablesOk, MemWf, CoresWf, tenant, State.reset, tsorted]
theorem tables_accessor (w : List Val) : TablesOk (accessor w) ∧ MemWf (accessor w) := by
  simp [TablesOk, MemWf, CoresWf, accessor, tenant, State.reset, tsorted]
theorem tables_service (w : List Val) : TablesOk (service w) ∧ MemWf (service w) := by
  simp [TablesOk, MemWf, CoresWf, service, tenant, State.reset, tsorted]

/-! ### Scalars, immediates, conversions -/

theorem witness_ScalarArithmetic : Runs (abc 7 2 3) h ∧ Reads (abc 7 2 3) [sc 1] [.s 7] ∧
    Reads (abc 7 2 3) [sc 1, sc 0] [.s 7, .s 2] ∧ Reads (abc 7 2 3) [sc 1, sc 0, sc 2] [.s 7, .s 2, .s 3] := by
  unfold Runs Reads; decide +kernel
theorem witness_WordArithmetic : Runs (abc 7 0 3) h ∧ plainA (op2 8) 8 ∧ plainA (op2 9) 9 ∧ Reads (abc 7 0 3) [sc 1] [.s 7] ∧
    (∀ n ∈ [0, 1, 2 ^ 63, 2 ^ 64 - 1], let b := BitVec.ofNat 64 n; Reads (abc 7 b 3) [sc 1, sc 0] [.s 7, .s b] ∧
      Reads (abc 7 b 3) [sc 1, sc 0, sc 2] [.s 7, .s b, .s 3]) := by
  unfold Runs Reads plainA plain; decide +kernel
theorem witness_ScalarBitsAndShifts : (∀ n ∈ [0, 31, 32, 63, 64], let b := BitVec.ofNat 64 n; Runs (abc 7 b 3) h ∧ Reads (abc 7 b 3) [sc 1, sc 0] [.s 7, .s b] ∧
      Reads (abc 7 b 3) [sc 1, sc 0, sc 2] [.s 7, .s b, .s 3]) ∧
    isZ (tyA (op2 8)) ∧ isZ (tyA (op2 7)) ∧ (tyA (op2 9)).width = 64 ∧ (tyA (op2 6)).width = 32 ∧ tyA (op2 0x12) = .f32 := by
  unfold Runs Reads isZ; decide +kernel
theorem witness_ScalarCountsAndFields : Runs (abc 0 0x4000 0x7F3F) h ∧ isZ (tyA (op2 6)) ∧ plainA (op2 8) 8 ∧ plainA (op2 9) 9 ∧
    (∀ n ∈ [0, 1, 2 ^ 64 - 1], let a := BitVec.ofNat 64 n; Reads (abc a 0 0) [sc 1] [.s a]) ∧
    (∀ n ∈ [0, 0x0100, 0x7F3F], let b := BitVec.ofNat 64 n; Reads (abc 5 b b) [sc 1, sc 0] [.s 5, .s b] ∧
      Reads (abc 5 b b) [sc 1, sc 0, sc 2] [.s 5, .s b, .s b]) := by
  unfold Runs Reads isZ plainA plain; decide +kernel
/-- `cvt` to i32 from f32: NaN, both infinities, 2^31, 2^31 − 128 and −2^31 − 256. -/
theorem witness_ConvertScalar :
    let x : FmtA := ⟨1, 0x12, 0, 0, 0, 6⟩
    let src := fun a => (scalarNum (tyField x.opb) x.opa a).scale (sclOf x)
    isZ (tyA x) ∧ x.clp = 0 ∧ (∀ n ∈ [0x7FC00000, 0x7F800000, 0xFF800000, 0x4F000000, 0x4EFFFFFF, 0xCF000001], let a := BitVec.ofNat 64 n;
      Runs (abc a 0) h ∧ Reads (abc a 0) [sc 1] [.s a]) ∧
    (src 0x7FC00000).isNan = true ∧ src 0x7F800000 = .inf false ∧ src 0xFF800000 = .inf true ∧
    src 0x4F000000 = .fin false (2 ^ 31) 1 ∧ tyHi .i32 < 2 ^ 31 ∧ src 0x4EFFFFFF = .fin false (2 ^ 31 - 128) 1 ∧
    src 0xCF000001 = .fin true (2 ^ 31 + 256) 1 ∧ -(2 ^ 31 + 256) < tyLo .i32 ∧
    tyA ⟨1, 8, 0, 0, 0, 0x12⟩ = .f32 := by
  unfold Runs Reads isZ; decide +kernel
theorem witness_Immediates : Runs (abc 7 0) h ∧ Reads (abc 7 0) [sc 1] [.s 7] ∧ (63 : BitVec 32).toNat < 64 ∧
    64 ≤ (64 : BitVec 32).toNat := by
  unfold Runs Reads; decide +kernel
theorem witness_Immediates_vector : NamesVector filled 1 ∧ Runs filled h ∧ ¬ plain 0x80 ∧ ¬ plain 0x100 := by
  unfold Runs plain
  exact ⟨⟨by decide, vec 64 [9], by decide +kernel, by decide +kernel⟩, by decide +kernel⟩
/-- 2^24 + 1 lies as close to the f32 2^24, which is even, as to 2^24 + 2; 2^128 − 2^103 is the least that overflows; a quarter of the least
subnormal is tiny, and so is the least normal less 2^-152, which is rounded to the least normal; that less 2^-151 is not. -/
theorem witness_FloatRounding : isF .f32 ∧ (roundFloat .f32 (.fin false (2 ^ 24 + 1) 1)).1 = 0x4B800000 ∧
    floatOf .f32 0x4B800000 = .fin false (2 ^ 24) 1 ∧ floatOf .f32 0x4B800001 = .fin false (2 ^ 24 + 2) 1 ∧
    roundFloat .f32 (.fin true (2 ^ 128 - 2 ^ 103) 1) = (0xFF800000, fOF ||| fNX) ∧
    roundFloat .f32 (.fin false (2 ^ 128 - 2 ^ 103 - 1) 1) = (0x7F7FFFFF, fNX) ∧
    roundFloat .f32 (.fin false 1 (2 ^ 151)) = (0, fNX ||| fUF) ∧
    roundFloat .f32 (.fin false (2 ^ 26 - 3) (2 ^ 152)) = (0x00800000, fNX ||| fUF) ∧
    roundFloat .f32 (.fin false (2 ^ 25 - 1) (2 ^ 151)) = (0x00800000, fNX) ∧
    roundFloat .f32 (.fin false 1 (2 ^ 149)) = (1, 0) ∧
    (Machine.Num.fin false 1 1).isNan = false ∧ (Machine.Num.inf true).isNan = false := by
  unfold isF; decide +kernel

/-! ### Vectors -/

/-- Vectors at ^2, ^1 and ^3, and a guard whose lanes 0 and 2 are on. -/
def vabc : State := onTh (vab 8 [1, 2, 3] [4, 5, 6] [7, 8, 9]) fun t => { t with preds := [(5, 5)] }
theorem witness_VectorArithmetic : RunsLanes vabc h 512 ∧ RunsLanes vabc ⟨0, 5, 0⟩ 512 ∧ lanesOf (tyA (op2 2)).width = 512 ∧
    Reads vabc [vc 1] [vec 8 [1, 2, 3]] ∧ Reads vabc [vc 1, vc 0] [vec 8 [1, 2, 3], vec 8 [4, 5, 6]] ∧
    Reads vabc [vc 1, vc 0, vc 2] [vec 8 [1, 2, 3], vec 8 [4, 5, 6], vec 8 [7, 8, 9]] := by
  unfold RunsLanes Reads; decide +kernel
theorem witness_IntegerLanes : RunsLanes vabc h (lanesOf (tyA (op2 2)).width) ∧ isZ4 (tyA (op2 2)) ∧ isZ4 (tyA (op2 1)) ∧
    plain (op2 2).opa ∧ plain (op2 2).opb ∧ plain (op2 2).opc ∧ Reads vabc [vc 1, vc 0] [vec 8 [1, 2, 3], vec 8 [4, 5, 6]] ∧
    Reads vabc [vc 1, vc 0, vc 2] [vec 8 [1, 2, 3], vec 8 [4, 5, 6], vec 8 [7, 8, 9]] := by
  unfold RunsLanes Reads isZ4 plain; decide +kernel
theorem witness_VectorBits : RunsLanes vabc h (lanesOf (tyA (op2 3)).width) ∧ RunsLanes vabc ⟨0, 5, 1⟩ 64 ∧
    Reads vabc [vc 1] [vec 8 [1, 2, 3]] ∧ Reads vabc [vc 1, vc 0] [vec 8 [1, 2, 3], vec 8 [4, 5, 6]] ∧
    Reads vabc [vc 1, vc 0, vc 2] [vec 8 [1, 2, 3], vec 8 [4, 5, 6], vec 8 [7, 8, 9]] ∧
    (∀ q ∈ [7, 8], Reads (vab 8 [0x81] [q]) [vc 1, vc 0] [vec 8 [0x81], vec 8 [q]]) := by
  unfold RunsLanes Reads; decide +kernel
/-- ^1 is the scalar k, at the first lane past the end, and at the last. -/
def moved (k : Word) : State := tenant [.s k, vec 32 [1, 2], vec 32 [3]]
theorem witness_VectorMovesAndConversions : (∀ n ∈ [127, 128], let k := BitVec.ofNat 64 n; RunsLanes (moved k) h 128 ∧
      Reads (moved k) [vc 1, sc 0] [vec 32 [1, 2], .s k] ∧ Reads (moved k) [vc 1, sc 0, vc 2] [vec 32 [1, 2], .s k, vec 32 [3]]) ∧
    Reads vabc [vc 1, vc 0, vc 2] [vec 8 [1, 2, 3], vec 8 [4, 5, 6], vec 8 [7, 8, 9]] ∧
    Reads vabc [vc 1, vc 0] [vec 8 [1, 2, 3], vec 8 [4, 5, 6]] ∧ Reads vabc [vc 1] [vec 8 [1, 2, 3]] ∧
    RunsLanes vabc h 512 ∧ RunsLanes vabc h 256 ∧ (tyA ⟨1, 2, 0, 0, 0, 4⟩).width = 2 * (tyField 2).width ∧
    (tyA ⟨1, 2, 0, 0, 0, 6⟩).width = 4 * (tyField 2).width ∧
    getRun vabc.th 1 2 = .ok [vec 8 [7, 8, 9], vec 8 [1, 2, 3]] ∧ getRun vabc.th 0 2 = .ok [vec 8 [1, 2, 3], vec 8 [4, 5, 6]] ∧
    getOp vabc.th .v 2 = .ok (vec 8 [7, 8, 9]) ∧ [vec 8 [7, 8, 9], vec 8 [1, 2, 3], vec 8 [4, 5, 6]].any (·.isLost) = false := by
  unfold RunsLanes Reads; decide +kernel
/-- A vector, the scalars of `vmxdq` and `vbmap`, and codes. -/
def scaled : State := tenant [.s 0x7F, .s (-1), vec 8 [0x60, 0xE8], vec 32 [0x40400000]]
theorem witness_VectorSumsAndScales : RunsLanes vabc h 512 ∧ RunsLanes vabc h 128 ∧ Reads vabc [vc 1] [vec 8 [1, 2, 3]] ∧
    Reads vabc [vc 1, vc 0, vc 2] [vec 8 [1, 2, 3], vec 8 [4, 5, 6], vec 8 [7, 8, 9]] ∧ tyA (op2 2) = .i8 ∧ tyA (op2 3) = .n8 ∧
    RunsLanes scaled h 128 ∧ Reads scaled [vc 2, sc 0] [vec 8 [0x60, 0xE8], .s 0x7F] ∧ (tyField 0x22).isMx = true ∧
    Reads scaled [vc 3] [vec 32 [0x40400000]] ∧ (tyA ⟨3, 0x12, 0, 0, 0, 0x22⟩).isMx = true ∧ isF (tyField 0x12) ∧
    stageAct scaled.th 0 = .run ∧ guardLost scaled.th h = false ∧ Reads scaled [vc 2, sc 1] [vec 8 [0x60, 0xE8], .s (-1)] ∧
    Reads scaled [vc 2, sc 1, sc 0] [vec 8 [0x60, 0xE8], .s (-1), .s 0x7F] ∧ (tyA ⟨2, 1, 0, 0, 0, 0⟩).width = 4 := by
  unfold RunsLanes Reads isF; decide +kernel
theorem witness_ModularResidues : Runs (mod17 5 7 20) h ∧ Reads (mod17 5 7 20) [sc 1] [.s 5] ∧
    Reads (mod17 5 7 20) ([(1 : OpField), 0, 2].map fun f => (Need.e, f)) [.s 5, .s 7, .s 20] ∧
    Reads (mod17 5 7 20) ([(1 : OpField), 0].map fun f => (Need.e, f)) [.s 5, .s 7] ∧
    Reads vabc ([(1 : OpField), 0].map fun f => (Need.e, f)) [vec 8 [1, 2, 3], vec 8 [4, 5, 6]] ∧ RunsLanes vabc h 64 ∧
    ((17 % 2 = 1 ∧ 3 ≤ 17 ∧ 17 < 2 ^ 62) ∧ ∀ q ∈ [0, 1, 4, 2 ^ 62 + 1], ¬ (q % 2 = 1 ∧ 3 ≤ q ∧ q < 2 ^ 62)) := by
  unfold Runs RunsLanes Reads; decide +kernel

/-! ### State and control -/

theorem witness_Slots : Runs filled h ∧ (63 : BitVec 16).toNat < 64 ∧ Kept filled [.sslot 4] ∧ Kept filled [.vslot 63] ∧
    Reads filled [sc 0] [.s 5] ∧ Reads filled [vc 1] [vec 64 [9]] ∧ getRun filled.th 0 2 = .ok [vec 64 [9], .s 5] ∧
    [vec 64 [9], .s 5].any (·.isLost) = false := by
  unfold Runs Reads Kept; decide +kernel
theorem witness_Slots_vector : NamesVector filled 1 ∧ filled.th.window.length < ((63#9 : OpField).extractLsb' 0 6).toNat + (2 : BitVec 16).toNat ∧
    (64#9 : OpField).getLsbD 6 = true := by
  refine ⟨⟨by decide, vec 64 [9], by decide +kernel, by decide +kernel⟩, by decide +kernel, by decide⟩
theorem witness_Predicates_reserved : 96 ≤ (((96 : BitVec 16).extractLsb' 0 7).toNat) ∧
    96 ≤ (((96 <<< 8 : BitVec 16).extractLsb' 8 7).toNat) := by decide
theorem witness_Predicates : Runs filled h ∧ Kept filled [.pred 1] ∧ Kept filled [.pred 1, .pred 2] ∧
    Reads filled [(.e, 2), (.e, 0)] [.s 3, .s 5] ∧ (tyOf ((0x082 : BitVec 16).extractLsb' 4 7)).getD .i64 ∈ [Ty.i64, .n64, .i32, .n32, .f32] ∧
    (Val.s 3).isVec = false ∧ Reads filled [(.e, 1), (.e, 0)] [vec 64 [9], .s 5] ∧ (vec 64 [9]).isVec = true ∧
    stageAct filled.th 0 = .run ∧ guardLost filled.th ⟨0, 2, 1⟩ = false ∧ tyOf ((0x022 : BitVec 16).extractLsb' 4 7) = some .i8 := by
  unfold Runs Reads Kept; decide +kernel
/-- A scalar comparison in a type of vectors alone is 0x01; of a quiet NaN and a signalling one only the last raises INV. -/
theorem witness_Predicates_types : traps (.pcmp h ⟨2, 0, 1, 0x022⟩) filled 0x01 = true ∧
    (leaves (.pcmp h ⟨0, 1, 1, 0x126⟩) (tenant [.s 0x7FC00000, .s 0]) fun t => t.th.fpstat == 0) = true ∧
    (leaves (.pcmp h ⟨0, 1, 1, 0x126⟩) (tenant [.s 0x7F800001, .s 0]) fun t => t.th.fpstat == 16) = true ∧
    (numOf .f16 0x7D00).isSig = true ∧ (numOf .f16 0x7E00).isSig = false ∧ (numOf .f16 0x7E00).isNan = true := by decide +kernel
theorem witness_ControlRegisters : Runs (tenant [.s 3]) h ∧ partOf (tenant [.s 3]) 0 ≠ 0 ∧ Reads (tenant [.s 3]) [sc 0] [.s 3] ∧
    Runs (service [.s 3]) h ∧ Reads (service [.s 3]) [sc 0] [.s 3] := by
  unfold Runs Reads; decide +kernel
/-- A launch on core 0 of the tenant. -/
def aLaunch : Launch := { id := 0, eentry := 0x1000, aentry := 0, cores := [0, 1], arg := 9, wait := 0, set := 2, timeout := 50, jobn := 1,
                          job := 3, hard := false, persist := true, prio := 0, status := .running }
def launched (l : Launch) (w : List Val) : State :=
  let s := tenant w
  { s.setPart 1 { s.part 1 with launches := [l], nextLaunch := 1 } with
    cores := [(0, { launch := some 0, domain := 3 <<< 16, wdog := { left := 7 } }), (1, { launch := some 0 })] }
theorem witness_HintsAndStops : Runs (looping 0) h ∧ (looping 0).th.loop.isSome = true ∧ (1 : BitVec 16).toNat < 2 ∧
    (0x1234 : BitVec 16).getLsbD 15 = false ∧ Runs (launched aLaunch []) h ∧ launchOf (launched aLaunch []) 0 = some aLaunch ∧
    aLaunch.persist = true ∧ aLaunch.cores.Nodup ∧ tsorted (launched aLaunch []).cores = true ∧ launchOf (tenant []) 0 = none := by
  unfold Runs; decide +kernel
/-- Frames: none, 63 and 64 of them. -/
def framed (n : Nat) : State := onTh (tenant [.s 0x3000, .s 1]) fun t => { t with
  frames := List.replicate n { ret := 0x2000, window := [.s 1] } }
/-- The translation cache of die 0 holds a head of one scalar at 0x1008. -/
def headed (a : Word := 1) : State := (service [.s a]).setDie 0 { tcache := [⟨0, 0, 0x1008, [1, 1, 1, 1, 1], [0xE001FC0000008100], 0⟩] }
theorem witness_DisabledTransfers (a : Word) : Disabled (headed a) ⟨0, 3, 0⟩ ∧ getOps headed.th [sc 0] = .ok [.s 1] ∧ headed.th.window.length = 1 ∧
    headCheck headed 0x1008 [.s 1] = true ∧ headCheck headed 0x1008 [] = false ∧ (1 : Word).toNat % 8 ≠ 0 ∧
    getOps (headed 0x1008).th [sc 0] = .ok [.s 0x1008] ∧ (0x1008 : Word).toNat % 8 = 0 ∧ headCheck (headed 0x1008) 0x1008 [] = false := by
  refine ⟨⟨by rfl, by rfl, (by intro hd; cases hd), .inr ⟨by decide, fun i => ?_⟩⟩, by decide +kernel⟩
  simp [guardBit, headed, service, tenant, running, State.setDie, State.th, State.thread, State.reset, tget, tfind]
theorem witness_ControlTransfers : (∀ n ∈ [0, 1, 63, 64], Runs (framed n) h) ∧ (framed 63).th.frames.length < 64 ∧
    64 ≤ (framed 64).th.frames.length ∧ (framed 0).th.frames = [] ∧
    (framed 1).th.frames = [{ ret := 0x2000, window := [.s 1] }] ∧ 2 ≤ (framed 1).th.window.length ∧ (framed 1).th.window.length < 3 ∧
    headCheck (framed 1) 0x1020 [.s 1, .s 0x3000] = true ∧ Reads (framed 1) [sc 0] [.s 0x3000] ∧ (0x3000 : Word).toNat % 8 = 0 ∧
    headCheck (framed 1) 0x3000 [.s 1] = true ∧ headCheck headed 0x1008 [.s 1] = true ∧ headCheck headed 0x1008 [vec 8 [1]] = false ∧
    headCheck headed 0x1008 [] = false ∧ Reads (framed 1) [sc 1] [.s 1] ∧ (1 : Word).toNat % 8 ≠ 0 ∧
    Runs headed h ∧ Reads headed [sc 0] [.s 1] ∧ Reads (headed 0) [sc 0] [.s 0] ∧ headCheck (headed 0) 0x1008 [] = false ∧
    Reads (headed 0x1008) [sc 0] [.s 0x1008] ∧ headCheck (headed 0x1008) 0x1008 [] = false ∧
    Reads (framed 64) [sc 0] [.s 0x3000] ∧ headCheck (framed 64) 0x3000 [] = true ∧ headCheck (framed 64) 0x1008 [] = true := by
  unfold Runs Reads; decide +kernel
/-- The block of the thread holds a head of arity 1 at 0x1008, and a `lend` of 2 stages at 0x1010. -/
def blocked : State := onTh (tenant [.s 3]) fun t => { t with
  blk := some ⟨1, 3, 0x1000, [], [0, 0xE001FC0000008100, 0x6081FC0001FFFFFE], 0⟩ }
theorem witness_HardwareLoops : Runs blocked h ∧ Reads blocked [sc 0] [.s 3] ∧ (lendAt blocked 1 0x1010 2).toOption = some (0, 2) ∧
    (∀ k ∈ [2, 3], (looping k).th.loop.isSome = true) ∧ 2 + 1 < 3 + 2 - 1 ∧ 3 + 2 - 1 ≤ 3 + 1 ∧ (looping 3).th.window.length < 3 := by
  unfold Runs Reads; decide +kernel

/-! ### Memory: a tensor of two n64 elements behind a page table -/

/-- The nonzero bytes of a little-endian value at an address. -/
def cellsAt (a v : Nat) : List Host.Cell :=
  (List.range 8).filterMap fun i => let b := BitVec.ofNat 8 (v / 256 ^ i); if b = 0 then none else some (a + i, b)
/-- Die 0: the descriptors of handle 5 at 0x1140 (n64, rank 1, readable, writable, two elements) and of handle 0 at 0x1000, their shard maps at
0x2000 and 0x2100 and their page tables from 0x8000 and 0xB000, in partition 0 storage; two elements of handle 5 in the frame 0x200000; pages
0 (readable, writable) and 2 (readable, executable) of the flat space in frames 0x201000 and 0x203000, page 1 not valid; an `add` at
flat address 0x2000 (R269-R271). -/
def hbm0 : Memory :=
  { cells := cellsAt 0x1000 0x1E401C083 ++ cellsAt 0x1008 0xF00000000000 ++ cellsAt 0x1010 0x100000001 ++ cellsAt 0x1018 12 ++
      cellsAt 0x1020 0x2100 ++
      cellsAt 0x1140 0x1E400C089 ++ cellsAt 0x1148 0x100000002 ++ cellsAt 0x1150 0x100000001 ++ cellsAt 0x1158 9 ++
      cellsAt 0x1160 0x2000 ++ cellsAt 0x2010 0x100000002 ++ cellsAt 0x2018 0x100000001 ++ cellsAt 0x2020 0x8000 ++
      cellsAt 0x2028 0xFFFF ++ cellsAt 0x2110 0xF00000000000 ++ cellsAt 0x2118 0x100000001 ++ cellsAt 0x2120 0xB000 ++
      cellsAt 0x2128 0xFFFF ++ cellsAt 0x8000 0x9001 ++ cellsAt 0x9000 0xA001 ++ cellsAt 0xA000 0x200059 ++ cellsAt 0xB000 0xC001 ++
      cellsAt 0xC000 0xD001 ++ cellsAt 0xD000 0x201059 ++ cellsAt 0xD008 0x202058 ++ cellsAt 0xD010 0x203069 ++
      cellsAt 0x200000 0x1122334455667788 ++ cellsAt 0x200008 99 ++ cellsAt 0x203000 0x1001FC0000800008,
    tags := [(0x40, 0), (0x45, 0), (0x80, 0), (0x84, 0), (0x200, 0), (0x240, 0), (0x280, 0), (0x2C0, 0), (0x300, 0), (0x340, 0),
      (0x8000, 0x103), (0x80C0, 0x103)] }
/-- The state with that memory, the table at 0x1000 and region 1 of die 0 the tenant's. -/
def mapped (s : State) : State :=
  { s.setPart 1 { s.part 1 with tdt := 0x1000 } with dies := [(0, { hbm := hbm0 })], owners := [(1, 1)] }

theorem test_ldn_flat_unmapped : traps (.ldn h ⟨0, 0, 3, 0, 0, 0, 0, 0⟩) (mapped (tenant [.s 0x1000])) 0x10 = true := by decide +kernel
theorem test_st_execute_page : traps (.st h ⟨0, 0, 3, 0, 0, 0, 0, 0⟩) (mapped (tenant [.s 0x2000])) 0x11 = true := by decide +kernel
theorem test_tld : gives (.tld h ⟨0, 1, 0, 0, 5⟩) (mapped (tenant [.s 0, .s 0])) [vec 64 [0x1122334455667788, 99]] = true := by
  decide +kernel
theorem test_tld_past_extent : traps (.tld h ⟨0, 1, 0, 0, 5⟩) (mapped (tenant [.s 2, .s 0])) 0x13 = true := by decide +kernel
theorem test_tst : leaves (.tst h ⟨0, 1, 2, 0, 5⟩) (mapped (tenant [.s 1, .s 0, vec 64 [7, 8]])) (fun t =>
    readByte t { tag := 0x103 } (.hbm 0) 0x200008 == 7 && readByte t { tag := 0x103 } (.hbm 0) 0x200000 == 0x88) = true := by decide +kernel
theorem test_tgat : gives (.tgat ⟨0, 7, 0⟩ ⟨0, 1, 0, 0, 5⟩) (mapped (onTh (tenant [vec 64 [5, 1, 0], .s 0]) fun t => { t with
    preds := [(7, 6)] })) [vec 64 [0, 99, 0x1122334455667788]] = true := by decide +kernel
theorem test_tsct : leaves (.tsct ⟨0, 7, 0⟩ ⟨0, 1, 2, 0, 5⟩) (mapped (onTh (tenant [vec 64 [5, 1], .s 0, vec 64 [4, 6]]) fun t => { t with
    preds := [(7, 2)] })) (fun t => readByte t { tag := 0x103 } (.hbm 0) 0x200008 == 6) = true := by decide +kernel
theorem test_tinfo_extent : gives (.tinfo h ⟨0, 0, 0, 0, 5⟩) (mapped (tenant [.s 2])) [.s 2] = true := by decide +kernel
theorem test_tldq : leaves (.tldq h ⟨0, 1, 3, 0, 5⟩) (mapped (accessor [.s 0, .s 0])) (fun t =>
    ((tget (t.core 0).queues 3 []).map fun e => match e.status with | .asked l => l.length | _ => 0) == [2]) = true := by decide +kernel
theorem test_seal : leaves (.seal h ⟨0, 0, 0, 0, 0, 0, 0, 0⟩) (mapped (tenant [.s 5])) (fun t =>
    (liveDesc t 1 5).sealed_ && (liveDesc t 1 5).version == 2 && t.th.pc == 0x1008) = true := by decide +kernel
theorem test_unseal : leaves (.unseal h ⟨0, 0, 0, 0, 0, 0, 0, 0⟩) (putSeal (mapped (tenant [.s 5])) 1 5 true) (fun t =>
    !(liveDesc t 1 5).sealed_ && (liveDesc t 1 5).version == 3) = true := by decide +kernel

/-- It answers this cause. -/
def stopsAt {α : Type} (r : Except Trap α) (c : Nat) : Bool := match r with | .error t => t.cause == c | _ => false
/-- A near place of 8 bytes, and the same of 512. -/
def nearPl : Place := { store := .near 0, addr := 64 }
theorem witness_FlatAccesses : let s := nearOf (tenant [.s 5, base])
    Runs s h ∧ Reads s [sc 1] [base] ∧ Reads s [sc 1, sc 0] [base, .s 5] ∧ Reads s [sc 1, vc 0] [base, .s 5] ∧ s.th.status = .running ∧
    Free s ∧ OrderMet s 4 5 ∧ OrderMet s 0 0 ∧ bytesOf 3 = 8 ∧
    (flatLocs s s.cur (ea 0xF00000000040 0) 8 8 .load).toOption = some (unitLocs nearPl 8) ∧
    (flatLocs s s.cur (ea 0xF00000000040 0) 8 8 .store).toOption = some (unitLocs nearPl 8) ∧
    (readLocs s s.cur (unitLocs nearPl 8)).toOption.map (·.1) = some [0x281] ∧ flatSplit s s.cur 0xF00000000040 8 = false ∧
    (∀ acc ∈ [Acc.load, .store], stopsAt (flatLocs s s.cur 0xF00000000041 8 8 acc) 0x14 = true) ∧
    (2 : Nat) ^ 48 ≤ 2 ^ 48 ∧ 0x80000 < 0xF0000007FFFF % 2 ^ 40 + 2 ∧ 0xF0000007FFF8 % 2 ^ 40 + 8 ≤ 0x80000 ∧
    (0xEFFFFFFFFFF8 + 16 > 0xF00000000000) := by
  unfold Runs Reads OrderMet Free; decide +kernel
/-- The flat shard map has an entry for addresses 0 to 3 and one for those from 4 on, each of which begins at page 0; or only the first. -/
def seamed (both : Bool) (s : State) : State :=
  let put := fun (m : List Host.Cell) (c : Host.Cell) => tset m c.1 c.2
  let cells := [(0x1026, if both then 1 else 0), (0x2110, 4), (0x2140, 4), (0x2155, 0xF0), (0x2158, 1), (0x215C, 1), (0x2161, 0xB0), (0x2168, 0xFF),
    (0x2169, 0xFF)].foldl put (terase hbm0.cells 0x2115)
  { mapped s with dies := [(0, { hbm := { hbm0 with cells := cells.filter (fun c => c.2 != 0), tags := tset hbm0.tags 0x85 0 } })] }
theorem witness_FlatAccesses_split :
    (let s := seamed true (tenant [])
     flatSplit s s.cur 0 8 = true ∧ 0 % 8 = 0 ∧
       (∀ i ∈ List.range 8, (flatPlace s s.cur i 1 1 .load).toOption = some { store := .hbm 0, addr := 0x201000 + i % 4 }) ∧
       (flatLocs s s.cur 0 8 8 .load).toOption.map List.length = some 8) ∧
    (let s := seamed false (tenant [])
     flatSplit s s.cur 0 8 = true ∧ (flatPlace s s.cur 3 1 1 .load).toOption.isSome = true ∧
       stopsAt (flatPlace s s.cur 4 1 1 .load) 0x13 = true ∧
       stopsAt (flatLocs s s.cur 0 8 8 .load) 0x13 = true) := by decide +kernel
/-- The near store, and bank memory between its bounds. -/
theorem witness_LocalAccesses : let s := nearOf (tenant [.s 5, base])
    Runs s h ∧ Reads s [sc 1] [base] ∧ Reads s [sc 1, sc 0] [base, .s 5] ∧ Reads s [sc 1, vc 0] [base, .s 5] ∧ s.th.status = .running ∧
    Free s ∧ flatPlace s s.cur (ea 0xF00000000040 0) 64 64 .load = .ok nearPl ∧
    flatPlace s s.cur (ea 0xF00000000040 0) 64 64 .store = .ok nearPl ∧ LocalRead s nearPl 64 ∧ LocalWrite s nearPl 64 := by
  unfold Runs Reads Free LocalRead LocalWrite; decide +kernel
theorem nearOf_tables (w : List Val) : TablesOk (nearOf (tenant w)) ∧ MemWf (nearOf (tenant w)) := by
  refine ⟨⟨?_, ?_, ?_, ?_⟩, ?_, ?_, ?_⟩
  case refine_6 =>
    simp [CoresWf, nearOf, tenant, State.reset, State.setCore, State.core, tget, tfind, tput, tset, tsorted, Memory.wf]
    rintro a b (⟨-, rfl⟩ | ⟨-, rfl⟩) <;> decide
  all_goals first
    | decide +kernel
    | simp [nearOf, tenant, State.reset, State.setCore, State.core, tget, tfind, tput, tset, tsorted]
theorem witness_StoresFrame : ((tenant []).part (tagPart (whoOf (tenant []) 1).tag)).behind = [] ∧
    (∀ e ∈ [((nearPl, 64), 5)], ∀ c, e.1.1.store ≠ .tiles c) ∧
    ∀ e ∈ [((nearPl, 64), 5)], e.1.1.store = Store.near 0 → 63 < e.1.1.addr ∨ e.1.1.addr + Loc.bytes e.1 ≤ 63 := by
  refine ⟨by decide +kernel, ?_, ?_⟩
  · intro e he c; simp at he; subst he; simp [nearPl]
  · decide +kernel
theorem witness_PrefetchAndPatternLoad : let s := nearOf (tenant [.s 5, base])
    Runs s h ∧ Reads s [sc 1] [base] ∧ Free s ∧ (flatLocs s s.cur 0xF00000000040 64 64 .load).toOption = some (unitLocs nearPl 64) ∧
    (readLocs s s.cur (unitLocs nearPl 64)).toOption.map (·.1) = some [0x281, 0, 0, 0, 0, 0, 0, 0] ∧ (7 : BitVec 7).toNat < 8 ∧
    Reads s [sc 0] [.s 5] ∧ stopsAt (flatLocs s s.cur 5 64 64 .load) 0x14 = true := by
  unfold Runs Reads Free; decide +kernel
/-- A queue with 15 entries, and a full one. -/
def fullQ (n : Nat) (s : State) : State := s.setCore 0 { s.core 0 with queues := [(3, List.replicate n { tag := 0x103 })] }
theorem witness_QueueLoads : let s := fullQ 15 (mapped (accessor [.s 0, .s 0xF00000000000]))
    Runs s h ∧ s.th.status = .running ∧ Reads s [sc 1] [.s 0xF00000000000] ∧
    (flatLocs s s.cur (ea 0xF00000000000 0) 512 512 .load).toOption = some (unitLocs { store := .near 0, addr := 0 } 512) ∧ isExe s.cur = false ∧
    (tget (s.core 0).queues 3 []).length < 16 ∧ 16 ≤ (tget ((fullQ 16 (accessor [])).core 0).queues 3 []).length ∧
    isExe (tenant []).cur = true ∧ Reads s [sc 0, sc 0] [.s 0, .s 0] ∧ OrderMet s 1 3 ∧
    stopsAt (flatLocs s s.cur 0xF10000000001 512 512 .load) 0x14 = true ∧ 0x14 ∉ [0x10, 0x11, 0x12, 0x19] ∧
    stopsAt (flatLocs s s.cur 0x1000 512 512 .load) 0x10 = true ∧
    stopsAt (tRun s (tAcc s 5) [2, 0, 0, 0] 0 .load fun _ => true) 0x13 = true ∧
    (tRun s (tAcc s 5) [0, 0, 0, 0] 0 .load (fun _ => true)).toOption.map List.length = some 2 := by
  unfold Runs Reads OrderMet Free; decide +kernel
theorem witness_QueueLoads_lanes : let s := mapped (accessor [.s 0, .s 0xF00000000000])
    let us := unitLocs { store := .near 0, addr := 0 } 512
    let ls := lanesOfLocs (((locOffs 0 us).zip us).map fun l => (8 * l.1, l.2))
    (readLocs s s.cur (ls.map fun l => (l.place, l.len))).toOption.isSome = true := by decide +kernel
/-- The line of die 0 has lost its data. -/
def spoilt (line : Nat) (s : State) : State := s.setDie 0 { s.die 0 with hbm := (s.die 0).hbm.setPoison line (some .data) }
theorem witness_TensorAccesses : let s := mapped (tenant [vec 64 [0, 1], .s 0, vec 64 [7, 8]])
    RunsLanes s h (tAcc s 5).n ∧ Reads s [sc 1, sc 1] [.s 0, .s 0] ∧ Reads s [sc 1, sc 1, vc 2] [.s 0, .s 0, vec 64 [7, 8]] ∧ Free s ∧
    (tRun s (tAcc s 5) (tCoords (tAcc s 5) 0 0) 0 .load (fun i => enabledAt s.th h i)).toOption.map (·.map (·.1)) = some [0, 1] ∧
    (tRun s (tAcc s 5) (tCoords (tAcc s 5) 0 0) 0 .store (fun i => enabledAt s.th h i)).toOption.map (·.map (·.1)) = some [0, 1] ∧
    (readLocs s s.cur [({ store := .hbm 0, addr := 0x200000 }, 64), ({ store := .hbm 0, addr := 0x200008 }, 64)]).toOption.map (·.1) =
      some [0x1122334455667788, 99] ∧ (tRun s (tAcc s 5) (tCoords (tAcc s 5) 2 0) 0 .load (fun i => enabledAt s.th h i)).toOption = none ∧
    Runs s h ∧ Reads s [sc 1] [.s 0] ∧ (coreDesc s 0 5).rank = 1 ∧ (coreDesc s 0 6).rank = 0 ∧ (∀ a ∈ [0, 2, 6, 7, 8], a ≤ 8) ∧
    descPoison s (s.core 0).view (partOf s 0) 5 = none ∧
    (let u := spoilt 0x45 s
     (tAcc u 5).h ≠ 0 ∧ (descPoison u (u.core 0).view (partOf u 0) (tAcc u 5).h).isSome = true ∧
       stopsAt (tRun u (tAcc u 5) (tCoords (tAcc u 5) 0 0) 0 .load fun _ => true) 0x19 = true) := by
  unfold Runs RunsLanes Reads Free; decide +kernel
theorem witness_TensorAccesses_gather : let s := mapped (onTh (tenant [vec 64 [0, 1], .s 0, vec 64 [7, 8]]) fun t => { t with preds := [(7, 3)] })
    RunsLanes s ⟨0, 7, 0⟩ 64 ∧ Reads s [vc 0, sc 1] [vec 64 [0, 1], .s 0] ∧ Reads s [vc 0, sc 1, vc 2] [vec 64 [0, 1], .s 0, vec 64 [7, 8]] ∧
    (tScattered s ⟨0, 7, 0⟩ (tAcc s 5) (vec 64 [0, 1]) 0 .load).toOption.map (·.map (·.1)) = some [0, 1] ∧
    (tScattered s ⟨0, 7, 0⟩ (tAcc s 5) (vec 64 [0, 1]) 0 .store).toOption.map (·.map (·.1)) = some [0, 1] ∧
    (tScattered s ⟨0, 7, 0⟩ (tAcc s 5) (vec 64 [0, 2]) 0 .store).toOption = none := by
  unfold RunsLanes Reads; decide +kernel
theorem witness_Sealing : let s := mapped (tenant [.s 5, .s 0])
    Runs s h ∧ Reads s [sc 0] [.s 5] ∧ Reads s [sc 1] [.s 0] ∧ s.th.status = .running ∧ (liveDesc s 1 5).w = true ∧ Free s ∧
    firstSeal (joinSeal s 5) 5 = true ∧ (liveDesc (joinSeal s 5) 1 5).sealed_ = false ∧ OrderMet s 2 5 ∧
    (liveDesc (putSeal s 1 5 true) 1 5).sealed_ = true ∧ unsealReady s 1 5 = true ∧ unsealReady (joinSeal s 5) 1 5 = true ∧
    (let u := putSeal s 1 5 true
     firstSeal (joinSeal u 5) 5 = true ∧ unsealReady (joinSeal u 5) 1 5 = true ∧ (liveDesc (joinSeal u 5) 1 5).sealed_ = true ∧
       allApplied (joinSeal u 5) (writesTo (joinSeal u 5) 1 5) = true) ∧
    writesTo (bumpShards (shootTlb (putSeal (joinSeal s 5) 1 5 true) 1 5 fun _ => true) 1 5 1) 1 5 = [] ∧
    (let r := s.setPart 1 { s.part 1 with sealQ := [(5, 7)] }
     firstSeal (joinSeal (r.setThread 7 { status := .waiting (.unseal 5) }) 5) 5 = false) ∧
    descPoison s none 1 5 = none ∧ (descPoison (spoilt 0x45 s) none 1 5).isSome = true ∧
    (let u := onTh s fun t => { t with lostWrites := [{ cause := 0x1A }] }
     descPoison u none 1 5 = none ∧ Runs u h ∧ Free u ∧ u.th.status = .running ∧
       lostAt u.th 5 = some { cause := 0x1A } ∧ (let v := putSeal u 1 5 true
         Reads v [sc 0] [.s 5] ∧ (liveDesc (joinSeal v 5) 1 5).sealed_ = true ∧ lostAt v.th 5 = some { cause := 0x1A })) := by
  unfold Runs Reads OrderMet Free; decide +kernel
theorem witness_DataQueues : let s := queued (tenant [vec 64 [5]])
    Runs s h ∧ Reads s [vc 0] [vec 64 [5]] ∧ isExe s.cur = true ∧ isExe (queued (accessor [])).cur = false ∧
    (tget (s.core 0).queues 2 []).length = 2 ∧ tget (s.core 0).queues 3 [] = [] ∧
    (∀ e ∈ tget (s.core 0).queues 2 [], e.status = .ready ∧ settledBefore s 0 e.issue = true ∧ e.taker = none ∧ e.poison = none ∧
      e.readied ≤ s.cycle ∧ ({ e with readied := 1 } : Entry).readied > s.cycle) ∧
    tget (s.core 0).counts 2 0 ≠ s.cycle + 1 ∧ tget (s.setCore 0 { s.core 0 with counts := [(2, 1)] } |>.core 0).counts 2 0 = s.cycle + 1 ∧
    (∃ e ∈ (tget (s.core 0).queues 2 []).map (fun e : Entry => { e with readied := 1 }), s.cycle < e.readied) ∧
    (tget ((fullQ 15 s).core 0).queues 3 []).length < 16 ∧ 16 ≤ (tget ((fullQ 16 s).core 0).queues 3 []).length := by
  unfold Runs Reads; decide +kernel

/-! ### Atomics, synchronisation, tiles -/

/-- The atomic of `amo` on n64, as a request. -/
def amoAt (op : AmoOp) (c : Word) : AmoReq := { op, ty := .n64, place := nearPl, b := 5, c, tag := 0x103, trap := flatTrap 0x19 0xF00000000040 }
theorem witness_Atomics : let s := amo 7
    (Instr.amoAdd h ⟨2, 1, 0, 0, 0, 0, 9⟩, AmoOp.add, 2) ∈ atomics h ⟨2, 1, 0, 0, 0, 0, 9⟩ ∧ Runs s h ∧ Reads s [sc 2, sc 1] [base, .s 5] ∧
    Reads s [sc 2, sc 1, sc 0] [base, .s 5, .s 7] ∧ s.th.status = .running ∧ Free s ∧ OrderMet s 0 0 ∧
    (flatLocs s s.cur 0xF00000000040 8 8 .atomic).toOption = some [(nearPl, 64)] ∧
    amoReq s .add .n64 [(nearPl, 64)] 0xF00000000040 5 0 = amoAt .add 0 ∧ homeOf (askFlat s s.cur 0xF00000000040) nearPl.store nearPl.addr = 0 ∧
    amoReady (askFlat s s.cur 0xF00000000040) s.cur (amoAt .add 0) = true ∧ stopsAt (flatLocs s s.cur 0xF00000000041 8 8 .atomic) 0x14 = true ∧
    (amoPerform (askFlat s s.cur 0xF00000000040) s.cur (amoAt .add 0)).toOption.map (·.1) = some 0x281 ∧
    (onTh s fun t => { t with status := .waiting (.amoDone 9 0) }).th.status = .waiting (.amoDone 9 0) := by
  unfold Runs Reads OrderMet Free; decide +kernel
theorem witness_AtomicEffects : (Ty.n32.width = 32 ∧ 2 ^ 32 - 1 < 2 ^ Ty.n32.width ∧ 2 ^ 64 - 1 < 2 ^ Ty.n64.width) ∧
    (let s := amo
     (amoAt .add 0).tag = (whoOf s s.cur).tag ∧ LocalWrite s nearPl 8 ∧ nearPl.addr % 8 = 0 ∧ (amoAt .add 0).parts = [] ∧
     (amoPerform s s.cur (amoAt .add 0)).toOption.map (·.1) = some 0x281) ∧
    (∀ c ∈ [3, 2 ^ 62 - 1], c % 2 = 1 ∧ 3 ≤ c ∧ c < 2 ^ 62) ∧ (∀ c ∈ [1, 2, 2 ^ 62 + 1], ¬ (c % 2 = 1 ∧ 3 ≤ c ∧ c < 2 ^ 62)) := by
  unfold LocalWrite; decide +kernel
/-- A record without descriptors. -/
def noWords : FmtR := ⟨0, 0, 0, 0, 0, 0, 0, 0, 0, 0, 0, 0, 0, 0, 0, 0⟩
def aRec (op : RecOp) : Rec := { id := 0, op, exe := true, pc := 0x1000, r := noWords, ov := [], tag := 0x103 }
/-- `n` copy records and `m` matrix records are queued. -/
def recQueues (n m : Nat) : State := (tenant [.s 9]).setCore 0 {
  lease := { claim := true, tenure := true, asker := some 1 }, copyQ := List.replicate n (aRec .cp), matQ := List.replicate m (aRec .mmul) }
/-- A launch on both cores; thread 1 is the only one of core 0, and core 1 has arrived or not. -/
def barrier (arrived : Bool) : State :=
  let s := launched aLaunch []
  { s with
    threads := [(0, { status := .done }), (1, running []), (2, { status := .done }), (3, running [])],
    parts := [(0, { isOpen := true }), (1, { s.part 1 with arrivals := if arrived then [{ level := 4, tid := 3, n := 1 }] else [] })] }
theorem witness_FencesAndBarriers : Runs (tenant []) h ∧ Free (tenant []) ∧ (tenant []).th.status = .running ∧ OrderMet (tenant []) 4 5 ∧
    OrderMet (tenant []) 2 3 ∧ launchOf (tenant []) 0 = none ∧ launchOf (barrier true) 0 = some aLaunch ∧ Runs (barrier true) h ∧
    Free (barrier true) ∧ OrderMet (barrier true) 2 4 ∧
    (let s1 := park (arrive (barrier true) 1 4 1 1) (.sync 4)
     let s2 := park (arrive (barrier false) 1 4 1 1) (.sync 4)
     barrierPast s1 0 4 1 = false ∧ barrierFull s1 0 4 1 = true ∧ 0 ∈ membersOf s1 0 4 ∧ (membersOf s1 0 4).Nodup ∧
       barrierPast s2 0 4 1 = false ∧ barrierFull s2 0 4 1 = false) ∧
    lostAt (tenant []).th 4 = none ∧
    (let s := onTh (tenant []) fun t => { t with lostWrites := [{ cause := 0x1A }] }
     Runs s h ∧ Free s ∧ s.th.status = .running ∧ lostAt s.th 4 = some { cause := 0x1A }) ∧
    openCopies ((tenant []).core 0) = [] ∧ openCopies ((recQueues 1 0).core 0) ≠ [] := by
  unfold Runs OrderMet Free; decide +kernel
/-- Flags 7 of group 0 holds `v`, event bit 9 is 1. -/
def flagged (v : BitVec 32) : State :=
  let s := tenant [.s 5, .s 0]
  { s.setPart 1 { s.part 1 with events := [(9, { bit := true, tag := 0x103 })] } with
    groups := [(0, { live := some 1, flags := [(7, { v, tag := 0x103 })] })] }
theorem witness_FlagsAndEvents : (∀ n ∈ [3, 3 + 2 ^ 31 - 1, 3 + 2 ^ 31], let v := BitVec.ofNat 32 n
      Runs (flagged v) h ∧ (flagged v).th.status = .running ∧ OrderMet (flagged v) 4 5 ∧ Free (flagged v) ∧
      flagReads (flagged v) ⟨0, 0, 7, 0, 1, 0, 3⟩ true 0 0 ∧ flagHeld (flagged v) ⟨0, 0, 7, 0, 1, 0, 3⟩ 0 ∧
      (flagRead (flagged v) 1 0 7).toOption = some v) ∧
    (3 - 3 : BitVec 32).toNat < 2 ^ 31 ∧ ((3 + 2 ^ 31 - 1) - 3 : BitVec 32).toNat < 2 ^ 31 ∧ 2 ^ 31 ≤ ((3 + 2 ^ 31) - 3 : BitVec 32).toNat ∧
    flagReads (flagged 3) ⟨1, 0, 0x107, 0, 1, 0, 0⟩ false 0 0 ∧ flagHeld (flagged 3) ⟨1, 0, 0x107, 0, 1, 0, 0⟩ 0 ∧
    ¬ flagHeld (flagged 3) ⟨0, 0, 0x107, 0, 1, 0, 0⟩ 5 ∧ flagReads (flagged 3) ⟨0, 0, 0x107, 0, 1, 0, 0⟩ false 5 0 ∧
    (eventRead (flagged 3) 1 9).toOption = some true ∧ (eventRead (flagged 3) 1 8).toOption = some false := by
  unfold Runs OrderMet Free flagHeld flagReads Reads; decide +kernel
theorem witness_FlagsAndEvents_waits :
    (let s := onTh (flagged 3) fun t => { t with status := .waiting (.flag 0 7 3 0 1) }
     Runs s h ∧ s.th.status = .waiting (.flag 0 7 3 0 1) ∧ flagReads s ⟨0, 0, 7, 0, 1, 0, 3⟩ true 0 0 ∧ flagHeld s ⟨0, 0, 7, 0, 1, 0, 3⟩ 0) ∧
    (let s := onTh (flagged 3) fun t => { t with status := .waiting (.event 9 0 4) }
     Runs s h ∧ s.th.status = .waiting (.event 9 0 4)) ∧
    (flagAt (flagged 3) 1 0 7).moved ≤ (flagged 3).cycle ∧ (tget ((flagged 3).part 1).events 9 {}).moved ≤ (flagged 3).cycle ∧
    ¬ ({ flagAt (flagged 3) 1 0 7 with moved := 1 } : Flag).moved ≤ (flagged 3).cycle ∧
    flagReads (flagged 3) ⟨0, 0, 0x107, 0, 1, 0, 0⟩ true 5 5 ∧ ¬ flagHeld (flagged 3) ⟨0, 0, 0x107, 0, 1, 0, 0⟩ 5 := by
  unfold Runs flagHeld flagReads Reads; decide +kernel
/-- An increment of the own die under an acquire is performed at once, one of die 1 is on its way. -/
theorem witness_FlagsAndEvents_acquire :
    let far := { (flagged 3).setPart 1 { (flagged 3).part 1 with groups := 0x10001 } with
      groups := ((flagged 3).groups ++ [(16, { live := some 1 })]) }
    let out := fun (s : State) g => issueWrite s (whoOf s s.cur) s.cur (.flagInc g 7 3) true 0 { cause := 0x1A }
    OrderMet (flagged 3) 1 5 ∧ OrderMet far 1 5 ∧ Free far ∧ Runs far h ∧ flagReads (onTh far fun t => { t with window := [.s 16] }) ⟨0, 0, 0x107, 0, 1, 0, 3⟩ true 16 0 ∧
    flagHeld far ⟨0, 0, 0x107, 0, 1, 0, 3⟩ 16 ∧
    (∀ w ∈ (out (flagged 3) 0).writes, w.src = 0 → w.applied = false → w.lost = false → w.seq ≠ 1) ∧
    ¬ ∀ w ∈ (out far 16).writes, w.src = 0 → w.applied = false → w.lost = false → w.seq ≠ 1 := by
  unfold Runs OrderMet Free flagHeld flagReads Reads; decide +kernel
theorem witness_FlagsAndEvents_lost :
    let s := { flagged 3 with groups := [(0, { live := some 1, flags := [(7, { v := 3, tag := 0x103, poison := true })] })] }
    (flagAt s 1 0 7).poison = true ∧ sees s (.flags 0) (whoOf s 1) (flagAt s 1 0 7).tag = true ∧ 0 / 16 = dieOf 0 := by decide +kernel
theorem witness_FlagAndEventHomes : (∀ p ∈ [Point.flags 0, .events],
      ({ tag := 0x103 } : Who).current (tenant []) p = true ∧ ({ tag := 0x102 } : Who).current (tenant []) p = false) ∧ tagPart 0x102 = 1 ∧
    flagFile (tenant []) 1 0 ≠ .none ∧ ({ tag := 0, raw := true } : Who).raw = true ∧ (0, 8) ≠ (0, 7) := by decide +kernel
theorem witness_TileInstructions : let s := tenant [vec 8 [7], .s 0xF00000000000]
    Runs s h ∧ Free s ∧ tileHolders s 0 2 false = ([], []) ∧ tileHolders s 0 2 true = ([], []) ∧ Reads s [vc 0] [vec 8 [7]] ∧
    Reads s [sc 1] [.s 0xF00000000000] ∧ poisonIn s (whoOf s s.cur) (.tiles 0) (2 * 0x8880 + 0x8840) 8 = none ∧
    poisonIn s (whoOf s s.cur) (.tiles 0) (2 * 0x8880) 0x8000 = none ∧ 0xF0 ≤ (0xF00000000000 : Word).toNat / 2 ^ 40 ∧
    flatPlace s s.cur 0xF00000000000 0x8000 512 .load = .ok { store := .near 0, addr := 0 } ∧
    (let u := s.setCore 0 { s.core 0 with reservations := [{ leader := 0, rid := 0, tile := 2, write := false }] }
     tileHolders u 0 2 true = ([], [(0, 0)]) ∧ tileHolders u 0 2 false = ([], []) ∧
     ([(0, 0), (0, 1)].filter (tileHolders u 0 2 true).2.contains) = [(0, 0)] ∧
     (onTh u fun t => { t with status := .waiting (.tile 2 true [] [(0, 0)]) }).th.status = .waiting (.tile 2 true [] [(0, 0)])) ∧
    tileHolders (s.setCore 0 { s.core 0 with matQ := [aRec .mmul] }) 0 2 false = ([], []) := by
  unfold Runs Free Reads; decide +kernel
theorem witness_TileContents : let s := tenant [vec 8 [7]]
    Runs s h ∧ Free s ∧ tileHolders s 0 2 true = ([], []) ∧ (whoOf s s.cur).raw = false ∧ tagCurrent s (.tiles 0) (whoOf s s.cur).tag = true ∧
    Reads s [vc 0] [vec 8 [7]] := by
  unfold Runs Free Reads; decide +kernel
theorem tiles_owned (w : List Val) (o : Nat) : owns (tenant w) 1 (.tiles 0) o = true := by
  simp [owns, tenant, State.reset, State.group, tget, tfind, isSvc, groupOf]
/-- A core with a claim of thread `k`, and one with a queued plain matrix record. -/
def claimed (k : Nat) (q : List Rec) : State := (tenant []).setCore 0 { lease := { claim := true, tenure := true, asker := some k }, matQ := q }
theorem witness_Leases : Runs (tenant []) h ∧ isSvc 0 = false ∧ Free (tenant []) ∧ ((tenant []).core 0).lease.claim = false ∧
    (∀ k ∈ [0, 1], ((claimed k []).core 0).lease.claim = true) ∧ ((claimed 0 []).core 0).lease.asker ≠ some 1 ∧
    ((claimed 1 []).core 0).lease.asker = some 1 ∧ ((claimed 1 [aRec .mmul]).core 0).matQ.any (·.op.isPlain) = true ∧
    ((claimed 1 []).core 0).matQ.any (·.op.isPlain) = false ∧ ((claimed 1 []).core 0).reservations = [] ∧
    ((claimed 1 [aRec .mmulc]).core 0).matQ.any (·.op.isMatrix) = true ∧ (claimed 1 []).th.status = .running ∧
    isSvc (coreOf (service []).cur) = true ∧ Runs (service []) h ∧
    (let s := (tenant []).setCore 0 { reservations := [{ leader := 1, rid := 4, tile := 2, write := false }] }
     Free s ∧ s.th.status = .running ∧ (s.core 0).matQ.filter (·.op.isMatrix) = [] ∧ (s.core 0).reservations.map (fun r => (r.leader, r.rid)) = [(1, 4)] ∧
       ([(1, 4), (2, 0)].filter fun k => (s.core 0).reservations.any fun y => (y.leader, y.rid) == k) = [(1, 4)]) := by
  unfold Runs Free; decide +kernel

/-! ### Records, causes, system instructions -/

/-- `n` collectives are queued. -/
def collective (n : Nat) : State := (tenant []).setCore 0 { collQ := List.replicate n (aRec .coll) }
/-- A copy from a queue to the near store, and back. -/
def fromQueue : FmtR := { noWords with w1 := 511, w2 := (1 <<< 59) ||| (0x7F <<< 52), w4 := (9 <<< 59) ||| (0x7F <<< 52) ||| 2 }
def toQueue : FmtR := { noWords with w1 := 511, w2 := (9 <<< 59) ||| (0x7F <<< 52) ||| 2, w4 := (1 <<< 59) ||| (0x7F <<< 52) }
theorem witness_RecordIssue : Runs (recQueues 31 15) h ∧ Reads (recQueues 31 15) (overrides noWords) [] ∧
    Reads (recQueues 31 15) (overrides { noWords with ovn := 1 }) [.s 9] ∧ Free (recQueues 31 15) ∧
    (let c := (recQueues 31 15).core 0
     c.lease.claim = true ∧ c.lease.tenure = true ∧ c.lease.lender = none ∧ c.matQ.length < 16 ∧ c.copyQ.length < 32 ∧ c.collQ.length < 8 ∧
       hasRoom c (noteQueues { noWords with aux := 3 }) = true ∧ aheadOf c (noteQueues { noWords with aux := 3 }) ≠ [] ∧
       aheadOf c (noteQueues { noWords with aux := 4 }) = []) ∧
    16 ≤ ((recQueues 32 16).core 0).matQ.length ∧ 32 ≤ ((recQueues 32 16).core 0).copyQ.length ∧
    ((tenant []).core 0).lease.claim = false ∧ noteOk noWords = true ∧ noteOk { noWords with w2 := 1 } = false ∧
    queueEndBad (queued (tenant [])) fromQueue [] = false ∧ queueEndCount (queued (tenant [])) fromQueue [] = 1 ∧
    1 ≤ (freeEntries (entriesOf (queued (tenant [])) 0 2)).length ∧
    queueEndBad (queued (tenant [])) toQueue [] = true ∧ queueEndBad (queued (accessor [])) toQueue [] = false ∧
    queueLen (queued (accessor [])) 0 2 + queueEndCount (queued (accessor [])) toQueue [] ≤ 16 ∧
    16 < queueLen (fullQ 16 (accessor [])) 0 3 + 1 ∧ 8 ≤ ((collective 8).core 0).collQ.length ∧ ((collective 7).core 0).collQ.length < 8 ∧
    (freeEntries (entriesOf (tenant []) 0 2)).length < 1 ∧ queueEndBad (recQueues 32 16) fromQueue [] = false ∧
    hasRoom ((recQueues 32 16).core 0) (noteQueues { noWords with aux := 3 }) = false ∧
    ((claimed 1 []).setCore 0 { lease := { claim := true } } |>.core 0).lease.tenure = false ∧ toQueue.w2.extractLsb' 59 5 = 9 ∧ fromQueue.w4.extractLsb' 59 5 = 9 := by
  unfold Runs Reads Free; decide +kernel
theorem witness_Privilege : Runs (tenant [.s 1, .s 2]) h ∧ partOf (tenant [.s 1, .s 2]) (coreOf (tenant [.s 1, .s 2]).cur) ≠ 0 ∧
    Reads (tenant [.s 1, .s 2]) [sc 0] [.s 1] ∧ Reads (tenant [.s 1, .s 2]) [sc 0, sc 1] [.s 1, .s 2] := by
  unfold Runs Reads; decide +kernel
/-- The tenant's trap records lie at 0x400000 of die 0, in partition 0 storage. -/
def trapsAt : State := (tenant []).setPart 1 { (tenant []).part 1 with trapbase := 0x400000 }
theorem witness_TakingCauses : Runs trapsAt h ∧ Free trapsAt ∧ isSvc (coreOf 1) = false ∧ isSvc (coreOf 513) = true ∧
    ({ cause := 0x20 } : Trap).errAt = none ∧ (who0 trapsAt).current trapsAt (.hbm 0 0) = true ∧ flat0 (trapAddr trapsAt 0 1) = some (0, 0x400080) ∧ 0x400080 + 128 ≤ Config.hbmBytes ∧
    (∀ u ∈ [0x400080 / 64, (0x400080 + 127) / 64], owns trapsAt 0 (.hbm 0) (64 * u) = true ∧ passes trapsAt (who0 trapsAt) (.hbm 0) (64 * u) = true) := by
  unfold Runs Free; decide +kernel
/-- The service thread of die 0, its operand `a`, partition 1 as given. -/
def svc (a : Word) (q : Part → Part) : State := (service [.s a]).setPart 1 (q ((service [.s a]).part 1))
theorem witness_PartitionInstructions : (∀ a ∈ [0, 1, 15, 16], let s := svc (BitVec.ofNat 64 a) id
      Supervisor s h ∧ Reads s [sc 0] [.s (BitVec.ofNat 64 a)]) ∧ Alone (svc 1 id) 1 ∧ Alone (svc 15 id) 15 ∧
    ((svc 1 id).part 1).isOpen = true ∧ ((svc 1 fun q => { q with isOpen := false }).part 1).isOpen = false ∧
    ((svc 15 id).part 15).groups = 0 ∧ ((svc 1 id).part 1).groups ≠ 0 ∧
    succGen 1 ((svc 1 fun q => { q with low := 4 }).part 1).gen = ((svc 1 fun q => { q with low := 4 }).part 1).low ∧
    { svc 1 id with sweeps := [{ part := 1, s := 3, asked := none }] }.sweeps.any (·.part == 1) = true ∧
    (svc 1 id).sweeps.any (·.part == 1) = false ∧ ((svc 1 id).part 1).switching = none ∧ ((svc 1 id).part 1).removal = none ∧
    saveOwned (svc 1 id) 1 1 = false ∧ saveOwned { svc 1 id with owners := [(0, 1), (1, 1), (2, 1)] } 1 1 = true ∧
    targetPart ((svc 1 id).die 0).target = 0 ∧ targetPart (((svc 1 id).setDie 0 { target := 1 }).die 0).target = 1 ∧
    ((svc 1 id).die 0).pcfg.toNat % 256 = 0 ∧ flatPlace (svc 1 id) 513 0 256 256 .load = .ok { store := .hbm 0, addr := 0 } ∧
    (let s := (svc 1 fun q => { q with ctlQ := [515, 513] }).setThread 515 { status := .waiting (.dusk 1) }
     (s.part 1).ctlQ = [515, 513] ∧ 515 ≠ s.cur ∧ atControl s 1 515 = true) ∧
    (let u := (svc 1 id).setDie 0 { pcfg := 0x101 }
     (u.die 0).pcfg.toNat % 256 ≠ 0 ∧ Supervisor u h ∧ Reads u [sc 0] [.s 1] ∧ Alone u 1) := by
  unfold Supervisor Runs Reads Alone; decide +kernel
/-- The block with a weight of 1 and the given bytes. -/
def aBlock (l : List (Nat × Byte)) : List Byte := l.foldl (fun b x => b.set x.1 x.2) (List.replicate 56 0 ++ [1] ++ List.replicate 199 0)
/-- Group 0 has partitions 2 and 3; region 1 of die 0 is partition 2's. -/
def others : State := { svc 1 id with groups := [(0, { live := some 2, shadow := some { part := 3 } })], owners := [(1, 2)] }
theorem witness_PartitionBlocks : blockBad others 1 (aBlock []) = false ∧ (others.part 1).isOpen = true ∧
    ((svc 1 fun q => { q with isOpen := false }).part 1).isOpen = false ∧ blockNat (aBlock []) 0x38 1 ≠ 0 ∧
    (∀ l ∈ [[(0x38, 0)], [(0x39, 1)], [(0xFF, 1)], [(0xA2, 2)], [(0x30, 64)], [(0x34, 1)], [(0x60, 1)], [(0x68, 1)], [(0x65, 1)],
        [(0x62, 0x20), (0x6A, 0x20)], [(0, 1)]], blockBad others 1 (aBlock l) = true) ∧
    blockBad others 1 (aBlock [(0x6A, 0x20)]) = false ∧ blockBad others 1 (aBlock [(0x30, 64), (0x34, 64)]) = false ∧
    blockBad others 2 (aBlock [(0, 1), (0x62, 0x20), (0x6A, 0x20)]) = false := by decide +kernel
/-- It waits in a `halt` that began at generation `g`: at 3 the removal still drains. -/
def halting (g : Nat) : State :=
  onTh (svc 1 fun q => { q with removal := if g = 3 then some { cycle := 0 } else none })
    fun t => { t with status := .waiting (.halt 1 (BitVec.ofNat 8 g)) }
theorem witness_DuskAndHalt : let s := svc 1 id
    Supervisor s h ∧ Reads s [sc 0] [.s 1] ∧ Alone s 1 ∧ (s.part 1).groups ≠ 0 ∧ succGen 1 (s.part 1).gen ≠ (s.part 1).low ∧
    (∀ c ∈ liveCores s 1, ∀ r ∈ (s.core c).records, r.status ≠ .running) ∧ (s.part 1).slow = [] ∧
    ((svc 1 fun q => { q with slow := [.hbm 0 0] }).part 1).slow ≠ [] ∧ liveAll s 1 = true ∧
    (let r := s.setCore 0 { copyQ := [{ aRec .cp with status := .running }] }
     (∃ c ∈ liveCores r 1, ∃ x ∈ (r.core c).records, x.status = .running ∧ x.op ≠ .note ∧ x.op ≠ .coll) ∧ (r.part 1).saved = false) ∧
    (∀ g ∈ [3, 4], let t := halting g
      Runs t h ∧ isSvc (coreOf t.cur) = true ∧ t.th.status = .waiting (.halt 1 (BitVec.ofNat 8 g)) ∧
        ((t.part 1).removal = none ↔ g = 4)) := by
  unfold Supervisor Runs Reads Alone; decide +kernel
/-- TARGET names partition 1, core 0 and its execute thread. -/
def targeted (f : State → State) : State := f (((service [.s 5, .s 64]).setDie 0 { target := 0x1010001 }).setThread 1
  { running [] with status := .trapped })
theorem witness_SystemForms : let s := targeted id
    Supervisor s h ∧ Reads s [sc 0, sc 1] [.s 5, .s 64] ∧ Reads s [sc 0] [.s 5] ∧ targetPart (s.die 0).target = 1 ∧ (64 : Word) ≠ 0 ∧
    (liveDesc s 1 5).rank = 0 ∧ (liveDesc (mapped s) 1 5).rank ≠ 0 ∧ versionSeen (mapped s) 1 5 = true ∧
    versionSeen ((mapped s).setCore 0 { launch := some 0, view := some [] }) 1 5 = false ∧ (s.part 1).migsrc = 0xFFFF ∧
    (s.thread 1).status = .trapped ∧ ((service []).thread 1).status ≠ .trapped ∧ flat0 (trapAddr s 0 1 + 0x58) = some (0, 0xD8) ∧
    (readLocs s s.cur (unitLocs { store := .hbm 0, addr := 0xD8 } 8)).toOption.map (·.1) = some [0] ∧
    (s.die 0).notices = [] ∧ s.rawLocked = false ∧ { s with rawLocked := true }.rawLocked = true ∧
    ((s.setDie 0 { s.die 0 with notices := [.mgmt] }).die 0).notices = [.mgmt] ∧
    descPoison s none 1 5 = none ∧ (descPoison (spoilt 0x45 (mapped s)) none 1 5).isSome = true ∧
    devPoison s none (liveDesc s 1 0).smap (64 * ((liveDesc s 1 0).scnt + 1)) = none ∧
    (let u := spoilt 0x84 (mapped s)
     descPoison u none 1 0 = none ∧ (devPoison u none (liveDesc u 1 0).smap (64 * ((liveDesc u 1 0).scnt + 1))).isSome = true) ∧
    (0x1000 : Nat) + 8 * 1 ≤ 2 ^ 48 := by
  unfold Supervisor Runs Reads; decide +kernel
/-- The supervisor's `pull` of page 1, not valid, of page 0, valid, and where the shard map is lost. -/
theorem witness_SystemForms_pull : let m := mapped (targeted id)
    let s := (m.setDie 0 { m.die 0 with target := 0x1010001 }).setPart 1 { m.part 1 with migsrc := 3 }
    targetPart (s.die 0).target = 1 ∧ (s.part 1).migsrc ≠ 0xFFFF ∧
    (∀ a ∈ [0, 0x1000], pullPoison s 1 (liveDesc s 1 0) [a, 0, 0, 0] = none ∧ coordsOk (liveDesc s 1 0) [a, 0, 0, 0] = true ∧
      (findShard s none (liveDesc s 1 0) 0 [a, 0, 0, 0] ((liveDesc s 1 0).scnt + 1) 0).isSome = true) ∧
    shardLocal s (readShard s none (liveDesc s 1 0) 0 0) = true ∧
    (pullLeaf s 0 0xB000 (pageOf (liveDesc s 1 0) (readShard s none (liveDesc s 1 0) 0 0) [0x1000, 0, 0, 0]).1).map
      (fun e => (e.2.2.v, e.2.2.frame)) = some (false, 0x202000) ∧
    (pullLeaf s 0 0xB000 (pageOf (liveDesc s 1 0) (readShard s none (liveDesc s 1 0) 0 0) [0, 0, 0, 0]).1).map (fun e => e.2.2.v) = some true ∧
    (pullPoison (spoilt 0x84 s) 1 (liveDesc (spoilt 0x84 s) 1 0) [0, 0, 0, 0]).isSome = true := by decide +kernel
/-- Raw-access mode entered in this cycle, or in the one before, on die 1. -/
theorem witness_SystemForms_raw : let s := targeted id
    TablesOk State.reset ∧ (∀ c ∈ [0, 1], let u := { s.setDie 1 { raw := true, rawAt := some (c, false) } with cycle := 1 }
      (u.die 1).rawAt = some (c, false) ∧ (c = u.cycle ↔ c = 1) ∧ Supervisor u h) := by
  refine ⟨by simp [TablesOk, State.reset, tsorted], ?_⟩
  unfold Supervisor Runs; decide +kernel
/-- A `tret` whose record asks for nothing, a single step, and neither. -/
theorem witness_SystemForms_tret : ∀ n ∈ [0, 1, 2], let s := targeted id
    let u := s.setDie 0 { s.die 0 with hbm := { cells := if n = 0 then [] else [(0xD8, BitVec.ofNat 8 n)], tags := [(3, 0)] } }
    (u.thread 1).status = .trapped ∧ flat0 (trapAddr u 0 1 + 0x58) = some (0, 0xD8) ∧
    (readLocs u u.cur (unitLocs { store := .hbm 0, addr := 0xD8 } 8)).toOption.map (·.1) = some [n] := by decide +kernel
/-- Slot 0 is the tenant's; two entries in its near store, the first sound or poisoned. -/
theorem witness_SystemForms_slotld : let t := (tenant [.s 0xF00000000040]).setPart 1 { (tenant []).part 1 with slots := 1 }
    Runs t h ∧ Free t ∧ Reads t [sc 0] [.s 0xF00000000040] ∧ ownsSlot t 1 0 = true ∧ ownsSlot t 1 1 = false ∧
    (imagePlaces t 0xF00000000040 2).toOption.map List.length = some 2 ∧
    ((imagePlaces t 0xF00000000040 2).toOption.map fun ps => (readLocs t t.cur ps.flatten).toOption.map fun r => joinEach ps r.1) = some (some [0, 0]) ∧
    [(0 : Word)].any slotBad = false ∧ [(-1 : Word)].any slotBad = true ∧
    (let u := t.setCore 0 { near := { tags := [(1, 0x103)], poison := [(1, .data)] } }
     ((imagePlaces u 0xF00000000040 1).toOption.map fun ps => match readLocs u u.cur ps.flatten with
        | .error (.cause c) => c == 0x19
        | _ => false) = some true) := by
  unfold Runs Reads Free; decide +kernel
/-! ### Events, launches, slices, the fabric, the host -/

/-- A plain write of the tenant on die 0, homed on die `home`, not applied. -/
def aWrite (home seq : Nat) (mca : Bool) : Write :=
  { seq, src := 0, home, op := .bytes (.hbm home) [{ addr := 64, val := 9, mask := 0xFF }], tag := 0x103, mca, clock := [], tid := 1, handle := 0,
    trap := { cause := 0x1A }, tick := 0 }
def onWay (w : Write) : State := { tenant [] with writes := [w], owners := [(2 ^ 20, 1)] }
/-- A page of die 1 that die 0 has counted 64 atomics of; one whose owner die 0 is. -/
def counted (m : PageMode) : State := { tenant [] with pageModes := [(2 ^ 28, m)], slot := 256 * 64 }
/-- Queue 3 holds an entry on its way from the near store. -/
def asked (st : EntryStatus) (k : Option Poison) : State := 
  nearOf ((tenant []).setCore 0 { queues := [(3, [{ status := st, tag := 0x103, poison := k, ckpt := some (running []) }])] })
theorem witness_MemoryTraffic :
    (let s := onWay (aWrite 1 1 false)
     unapplied s 0 = [aWrite 1 1 false] ∧ clockMet s 1 0 1 [] = true ∧ findWrite s 0 1 = some (aWrite 1 1 false) ∧
     opHome s (aWrite 1 1 false).op = 1 ∧ (∀ x ∈ unapplied s 0, x.seq < 1 → x.exposed = true)) ∧
    clockMet (onWay (aWrite 1 2 false)) 1 0 2 [] = false ∧
    (∀ n ∈ [63, 64], let s := { onWay (aWrite 1 1 true) with slot := 256 * n }; (s.tick < 64 ↔ n = 63) ∧ (64 ≤ s.tick ↔ n = 64)) ∧
    ({ aWrite 1 1 true with tries := 2 }.tries < 3 ∧ 3 ≤ { aWrite 1 1 true with tries := 3, applied := true }.tries) ∧
    (aWrite 1 1 true).applied = false ∧ tget (onWay (aWrite 1 1 true)).applied 0 0 + 1 = 1 ∧
    (let s := onTh (amo) fun t => { t with status := .waiting (.amo (amoAt .add 0)) }
     (s.thread 1).status = .waiting (.amo (amoAt .add 0)) ∧ amoReady s 1 (amoAt .add 0) = true ∧ (∀ a ∈ s.lateAmos, a.1 ≠ 1) ∧
        (amoPerform s 1 (amoAt .add 0)).toOption.map (·.1) = some 0x281) ∧
    (let s := asked (.asked [{ place := nearPl, dst := 0, len := 64 }]) none
     (entryAt s 0 3 0).map (·.filler) = some none ∧ olderAsked s 0 0 [{ place := nearPl, dst := 0, len := 64 }] = false ∧
        (replyLanes 0 { whoOf s 0 with tag := 0x103 } [{ place := nearPl, dst := 0, len := 64 }] s).map (·.1) = some [0x281]) ∧
    ((entryAt (asked .replied none) 0 3 0).map (·.poison) = some none ∧ (entryAt (asked .replied (some .data)) 0 3 0).map (·.poison) = some (some .data) ∧
     tagCurrent (asked .replied none) (.queue 0) 0x103 = true ∧ tagCurrent (asked .replied none) (.queue 0) 0x102 = false ∧
     (entryAt (asked .replied (some .data)) 0 3 0).map (fun e => (e.fault, e.ckpt.isSome)) = some (none, true) ∧
     settledBefore (asked .replied none) 0 0 = true ∧ settledBefore (asked .replied none) 0 1 = false) ∧
    (let s := counted { count := 64, by_ := 0 }
     (modeOf s 1 0).owner = none ∧ 64 ≤ (modeOf s 1 0).count ∧ (modeOf s 1 0).by_ ≠ 1 ∧ (modeOf s 1 0).since + 64 ≤ s.tick ∧ ownedPages s 0 < 16) ∧
    (modeOf (counted { count := 63 }) 1 0).count < 64 ∧
    (let s := counted { owner := some 0, since := 0 }
     (modeOf s 1 0).owner = some 0 ∧ 2 ≠ 0 ∧ (modeOf s 1 0).since + 64 ≤ s.tick ∧ frameWanted s 1 0 2 = false ∧
       frameWanted (s.setThread 256 { running [] with status := .waiting (.amo { amoAt .add 0 with place := { store := .hbm 1, addr := 64 } }) })
         1 0 2 = true) ∧
    takeFirst (fun r : PortReq => 64 * r.stack + r.lane == 133) [{ stack := 2, lane := 5, write := true, rmw := false }] =
     some ({ stack := 2, lane := 5, write := true, rmw := false }, []) := by decide +kernel
/-- An atomic of an ended tenancy that may be performed, and one of die 1 behind a write that is not applied. -/
theorem witness_MemoryTraffic_late :
    (let s := { amo with lateAmos := [(1, amoAt .add 0)] }
     takeFirst (fun (a : Nat × AmoReq) => a.1 == 1) s.lateAmos = some ((1, amoAt .add 0), []) ∧ amoReady s 1 (amoAt .add 0) = true) ∧
    (let a := { amoAt .add 0 with place := { store := .hbm 1, addr := 64 } }
     let s := { onWay (aWrite 1 1 false) with lateAmos := [(1, a)] }
     takeFirst (fun (a : Nat × AmoReq) => a.1 == 1) s.lateAmos = some ((1, a), []) ∧ amoReady s 1 a = false) := by decide +kernel
/-- Both threads of the barrier wait in their first `sync` of level 4. -/
def synced : State :=
  let s := barrier true
  { s.setPart 1 { s.part 1 with arrivals := [{ level := 4, tid := 1, n := 1 }, { level := 4, tid := 3, n := 1 }] } with
    threads := [(0, { status := .done }), (1, { running [] with status := .waiting (.sync 4) }), (2, { status := .done }),
      (3, { running [] with status := .waiting (.sync 4) })] }
theorem witness_WaitsAndCauses :
    (let s := onTh (flagged 3) fun t => { t with status := .waiting (.flag 0 7 3 0 1) }
     (s.thread 1).status = .waiting (.flag 0 7 3 0 1) ∧ mayRun s 1 = true ∧ stopDue (s.thread 1) = false ∧
        stopDue { s.thread 1 with hard := true } = true ∧ (flagRead s 1 0 7).toOption = some 3 ∧ (3 - 3 : BitVec 32).toNat < 2 ^ 31 ∧
        2 ^ 31 ≤ (3 - 4 : BitVec 32).toNat ∧ (eventRead s 1 9).toOption = some true ∧ (eventRead s 1 8).toOption = some false) ∧
    (let s := queued (tenant [])
     2 ≤ (freeEntries (entriesOf s 0 2)).length ∧ (∀ e ∈ (freeEntries (entriesOf s 0 2)).take 2, entryOut s 0 e = true) ∧
        (freeEntries (entriesOf s 0 2)).length < 3 ∧ (entriesOf s 0 2).length + 14 ≤ 16 ∧ 16 < (entriesOf s 0 2).length + 15) ∧
    (hasRoom ((recQueues 31 15).core 0) { m := true, c := true, l := false } = true ∧
     hasRoom ((recQueues 32 15).core 0) { m := true, c := true, l := false } = false) ∧
    (partOf synced 0 = 1 ∧ waitsSync synced 4 1 1 = true ∧ barrierFull synced 0 4 1 = true ∧ (membersOf synced 0 4).Nodup ∧
     barrierFull (barrier false) 0 4 1 = false) ∧
    (let s := onTh (mapped (tenant [])) fun t => { t with status := .waiting (.seal 5 [(0, 0)]) }
     (s.thread 1).status = .waiting (.seal 5 [(0, 0)]) ∧ allApplied s [(0, 0)] = true ∧ allApplied s [(0, 1)] = false) ∧
    (let s := onTh (mapped (tenant [])) fun t => { t with status := .waiting (.sealRel 5 []) }
     (s.thread 1).status = .waiting (.sealRel 5 []) ∧ orderMet s 0 5 [] = true ∧ (s.thread 1).lostWrites = [] ∧
        ((onTh s fun t => { t with lostWrites := [{ cause := 0x1A }] }).thread 1).lostWrites.head? = some { cause := 0x1A } ∧ orderMet (onWay (aWrite 1 1 true)) 0 5 [(0, 1)] = false) ∧
    (let s := onTh (mapped (tenant [])) fun t => { t with status := .waiting (.unseal 5) }
     (s.thread 1).status = .waiting (.unseal 5) ∧ firstSeal { s with cur := 1 } 5 = true ∧ unsealReady { s with cur := 1 } 1 5 = true ∧
        firstSeal { s.setPart 1 { s.part 1 with sealQ := [(5, 3)] } with cur := 1 } 5 = false) ∧
    (let s := onTh (tenant []) fun t => { t with pend := [{ cause := 0x38 }, { cause := 0x20 }] }
     (s.thread 1).pend ≠ [] ∧ (s.thread 1).stepMode ≠ .fired ∧ mayTake s 1 = true ∧
        (∃ c ∈ (s.thread 1).pend, ∀ u ∈ (s.thread 1).pend, pendBefore u c = false)) ∧
    (let s := onTh (tenant []) fun t => { t with stepMode := .fired }
     (s.thread 1).stepMode = .fired ∧ mayTake s 1 = true ∧ (s.thread 1).pend = []) ∧
    (partOf (tenant []) 0 ≠ 0 ∧ partOf (service []) (coreOf (service []).cur) = 0) ∧
    (launchOf (launched aLaunch []) 0 = some aLaunch ∧ ((launched aLaunch []).core 0).wdog.fired = false) := by decide +kernel
/-- A copy of 64 bytes within the near store: 8 elements of 8 bytes. -/
def copyRec (st : RecStatus) (upc : Nat) : Rec :=
  { aRec .cp with
    status := st, started := st == .running, upc
    r := { noWords with w1 := 7, w2 := (1 <<< 59) ||| (9 <<< 52) ||| 0x400, w3 := 1, w4 := (1 <<< 59) ||| (9 <<< 52) ||| 64, w5 := 1 } }
def copying (x : Rec) : State := nearOf ((tenant []).setCore 0 { copyQ := [x] })
theorem witness_RecordProgress :
    (let x := copyRec .queued 0
     findRec (copying x) 0 0 = some x ∧ mayStart (copying x) 0 x = true ∧ contextFor (copying x) 0 x = some 0 ∧ startCheck (copying x) 0 x = none ∧
        x.op ≠ .mmulc) ∧
    (let x := { copyRec .queued 0 with r := { (copyRec .queued 0).r with w2 := (1 <<< 59) ||| (9 <<< 52) ||| 0x7FFF9 } }
     mayStart (copying x) 0 x = true ∧ (startCheck (copying x) 0 x).isSome = true) ∧
    (let x := copyRec .running 0; let s := copying x
     x.status = .running ∧ mayStart s 0 x = false ∧ recMay s 0 = true ∧ recGoes s 0 x = true ∧ x.parked = false ∧ contextBack s 0 x = true ∧
        (reserveAgain s 0 x).isSome = true ∧
        (let p := { x with parked := true }
         let four := (List.range 4).map fun i => { x with id := i + 1 }
         recGoes (copying p) 0 p = true ∧ recDone (copying p) 0 p = false ∧ contextBack (copying p) 0 p = true ∧
           contextBack ((tenant []).setCore 0 { copyQ := four ++ [p] }) 0 p = false) ∧ recDone s 0 x = false ∧ x.d0.space ≠ 9 ∧
        (recPlace s 0 x x.d1 0 (x.sizes s 0).2 .load).toOption.map (·.1) = some (.loc nearPl) ∧
        (recPlace s 0 x x.d0 0 (x.sizes s 0).1 .store).toOption.map (·.1) = some (.loc { store := .near 0, addr := 0x400 }) ∧
        sourceGone s x (.loc nearPl) = false ∧ served s 0 x = true ∧ landed s 0 x = true ∧
        (readRec (recAsk (recAsk s 0 x x.d1 0 8 true) 0 x x.d0 0 8 true) 0 x (.loc nearPl) 8 (asksPort (elemRun s 0 x x.d1 0 8 .load (.loc nearPl)))).toOption.map (·.1) = some 0x281) ∧
    (arrayServes (claimed 1 []) 0 = true ∧ arrayServes (tenant []) 0 = false ∧ (aRec .mtr).op.isPlain = true) ∧
    (let x := { copyRec .running 0 with age := 1 }
     let y := { copyRec .running 0 with id := 1, age := 5 }
     served ((tenant []).setCore 0 { copyQ := [x, y] }) 0 x = false) ∧
    (let x := copyRec .running 8
     landed ((onWay { aWrite 0 1 false with op := .bytes (.near 0) [{ addr := 64, val := 9, mask := 0xFF }] }).setCore 0 { copyQ := [x] }) 0 x = false) ∧
    (let x := copyRec .running 8; let s := copying x
     recDone s 0 x = true ∧ x.r.rel = 0 ∧ x.op ∈ [RecOp.cp, .cpcv, .cpdz, .cpbk, .migrep] ∧ x.deadline = none) ∧
    (let x := { aRec .note with ahead := [7], r := { noWords with aux := 2, w1 := 9 } }
     findRec (copying x) 0 0 = some x ∧ findRec (copying x) 0 7 = none ∧ x.op = .note ∧ x.r.rel = 0) ∧
    (let x := { copyRec .running 0 with deadline := some 0, missed := true }
     x.missed = true ∧ x.deadline ≠ none) := by decide +kernel
/-- Element 0 of the copy with a place past the near store at its source or its destination, or a poisoned source; a fault had taken
its entry of a queue that has room for it again, or none; its queue source holds nothing. -/
theorem witness_RecordProgress_faults :
    (let x := { copyRec .running 0 with r := { (copyRec .running 0).r with w4 := (1 <<< 59) ||| (9 <<< 52) ||| 0x7FFF9 } }
     (recPlace (copying x) 0 x x.d1 0 8 .load).toOption.isNone = true ∧ (recPlace (copying x) 0 x x.d0 0 8 .store).toOption.isSome = true) ∧
    (let x := { copyRec .running 0 with r := { (copyRec .running 0).r with w2 := (1 <<< 59) ||| (9 <<< 52) ||| 0x7FFF9 } }
     (recPlace (copying x) 0 x x.d0 0 8 .store).toOption.isNone = true ∧ (recPlace (copying x) 0 x x.d1 0 8 .load).toOption.isSome = true ∧
       let y := { x with r := { x.r with w4 := (1 <<< 59) ||| (9 <<< 52) ||| 0x7FFF9 } }
       (recPlace (copying y) 0 y y.d0 0 8 .store).toOption.isNone = true ∧ (recPlace (copying y) 0 y y.d1 0 8 .load).toOption.isNone = true) ∧
    (recGoes { copying (copyRec .running 0) with firmware := .running, groups := [] } 0 (copyRec .running 0) = false) ∧
    (let x := copyRec .running 0
     let s := copying x
     let p := s.setCore 0 { s.core 0 with near := (s.core 0).near.setPoison 1 (some .data) }
     (match readRec p 0 x (.loc nearPl) 8 (asksPort (elemRun p 0 x x.d1 0 8 .load (.loc nearPl))) with
      | .error (.cause c) => c == 0x19
      | _ => false) = true) ∧
    (let x := { copyRec .running 0 with gone := [(0, none)] }
     (reserveAgain (copying x) 0 x).isSome = true ∧
       (reserveAgain ((copying x).setCore 0 { copyQ := [x], queues := [(0, List.replicate 16 { tag := 0x103 })] }) 0 x).isNone = true) ∧
    (let x := { aRec .cp with status := RecStatus.running, r := { noWords with w1 := 7, w2 := 1 <<< 59, w4 := 9 <<< 59 } }
     (match readRec ((tenant []).setCore 0 { copyQ := [x] }) 0 x (.queue 0) 8 true with | .error (.wait _) => true | _ => false) = true) := by
  decide +kernel
/-- A source package that does not answer. -/
theorem witness_RecordProgress_gone (hl : Config.sourceLost 0 = true) :
    let x := { copyRec .running 0 with op := .mig }
    (copying x).fresh = 0 ∧ sourceGone (copying x) x (.loc { store := .ext 3, addr := 0 }) = true := by
  refine ⟨rfl, ?_⟩
  show (true && Config.sourceLost 0 && true) = true
  rw [hl]; rfl
theorem witness_RecordProgress_again : let x := copyRec .running 0
    reserveAgain (copying x) 0 x = some (copying x) := by intro x; rfl
/-- `mmulc` on cores 0 and 1 of the die, running; core 0 holds a lent array or none. -/
def coop : Rec := { aRec .mmulc with status := .running, started := true, r := { noWords with w1 := 0x300000000, w3 := 3 } }
def cooperating : State := (tenant []).setCore 0 { matQ := [coop] }
theorem witness_RecordProgress_coop : findRec cooperating 0 0 = some coop ∧ nextArray coop = some 0 ∧ arrayFree cooperating 0 = true ∧
    participant 0 coop 0 = 0 ∧ oldest (waiters cooperating 0) = some { since := 0, core := 0, coop := some (0, 0) } ∧
    coop.arrays.length + 1 ≠ (coresOf coop.r).length := by decide +kernel
theorem witness_RecordProgress_settled : settleTenure cooperating 0 = cooperating := by rfl
/-- `mmul` of i8 codes from tiles into tile 0, in its core's tenure. -/
def product : Rec :=
  let side : Word := (6 <<< 59) ||| (BitVec.ofNat 64 (tyCode .i8) <<< 52)
  { aRec .mmul with status := .running, started := true, r := { noWords with w1 := 7, w2 := (6 <<< 59) ||| (6 <<< 52), w4 := side, w6 := side } }
theorem witness_RecordProgress_product : mulTy product = some .i8 ∧ arrayServes (claimed 1 [product]) 0 = true ∧
    (readAcc (claimed 1 [product]) product 0 0 product.d0.tile (product.d0.off / 0x4000)).toOption.isSome = true ∧
    recDone (claimed 1 [product]) 0 product = false ∧ recMay (claimed 1 [product]) 0 = true := by decide +kernel
theorem witness_RecordProgress_arrays :
    (let s := claimed 1 []
     settleTenure s 0 = s ∧ ((s.core 0).lease.tenure = true) ∧ oldest (waiters s 0) = none ∧ arrayFree s 0 = false) ∧
    (let s := (tenant []).setCore 0 { lease := { claim := true, asker := some 1 } }
     settleTenure s 0 = s ∧ arrayFree s 0 = true ∧ oldest (waiters s 0) = some { since := 0, core := 0, coop := none }) := by decide +kernel
theorem witness_RecordArithmetic : (∃ C : List Nat, C.length = 4096 ∧ ∀ c ∈ C, c < 2 ^ 32) ∧ (∃ rows : List Nat, rows.length = 64) ∧
    (17 % 2 = 1 ∧ 3 ≤ 17 ∧ 17 < 2 ^ 62) ∧ (∀ q ∈ [0, 2, 2 ^ 62], q % 2 = 0 ∨ q < 3 ∨ 2 ^ 62 ≤ q) ∧ 2 ^ 32 - 1 < 2 ^ Ty.n32.width ∧
    (Ty.i8, 8, 8) ∈ codeTypes ∧ (Ty.mx16, 16, 16) ∈ codeTypes ∧
    (∀ t ∈ codeTypes, ∀ k ∈ [0, 32], klenOf t.1 ⟨k, 1, 0⟩ % 32 = 0 ∧ klenOf t.1 ⟨k, 0, 0⟩ % 16 = 0) ∧ klenOf .mx8 ⟨48, 1, 0⟩ % 16 = 0 ∧
    klenOf .mx8 ⟨48, 1, 0⟩ % 32 ≠ 0 ∧ 0 < klenOf .m64 ⟨0, 0, 0⟩ := by
  refine ⟨⟨List.replicate 4096 0, List.length_replicate, fun c hc => ?_⟩, ⟨List.replicate 64 0, List.length_replicate⟩, by decide +kernel⟩
  rw [List.eq_of_mem_replicate hc]; decide
/-- Members of a collective of each kind read their elements; a member of `cpcv` widens n64 to f32 and to i8. -/
def member (aux : BitVec 6) : Rec := { copyRec .running 0 with op := .coll, r := { (copyRec .running 0).r with aux } }
theorem witness_CopyArithmetic : isF .f32 ∧ 0xFF800000 < 2 ^ Ty.f32.width ∧ 2 ^ 64 - 1 < 2 ^ Ty.i64.width ∧ Ty.i64 ∈ [Ty.i32, .n32, .i64, .n64] ∧
    (∀ k ∈ [0, 1, 2, 3], let x := member k; collKind x = k.toNat ∧
      (membersRead [(0, x)] x.upc (copying x)).toOption.map (·.1) = some [0x281]) ∧
    (let x := copyRec .running 0
     let y := { x with r := { x.r with w2 := (1 <<< 59) ||| (0x12 <<< 52) ||| 0x400 } }
     let z := { x with r := { x.r with w2 := (1 <<< 59) ||| (2 <<< 52) ||| 0x400 } }
     descTy (copying x) 0 x.d1 = some .n64 ∧ descTy (copying y) 0 y.d0 = some .f32 ∧ descTy (copying z) 0 z.d0 = some .i8) ∧
    (127 : Int) * 2 < 255 ∧ -(128 : Int) * 2 ≤ -256 := by
  unfold isF; decide +kernel
/-- The header of a frame of 5 bytes in one segment; a frame whose 9 stored bytes end where a checksum of 4 bytes does. -/
theorem witness_CopyArithmetic_frames : (zHeader [0x28, 0xB5, 0x2F, 0xFD, 0x20, 5] 9).isSome = true ∧ (3 : Nat) < 4 ∧
    (let x := { copyRec .running 0 with op := .cpdz, r := { (copyRec .running 0).r with w5 := 9 } }
     zStored x = 9 ∧ (let z : ZState := { inPos := 9, outPos := 5, size := 5 }; z.inPos + 0 = 9 ∧ z.checksum = false) ∧
       (let z : ZState := { inPos := 5, outPos := 3, size := 3, checksum := true, got := [0x99, 0x09, 0x77, 0xAD, 0x61, 0x62, 0x63] }
        z.inPos + 4 = 9 ∧ z.got.length = 4 + z.outPos ∧ leNat (z.got.take 4) = (xxh64 (z.got.drop 4)).toNat % 2 ^ 32)) := by decide +kernel
/-- The specification's own sums of the empty message and of "abc". -/
theorem test_xxh64 : xxh64 [] = 0xEF46DB3751D8E999 ∧ xxh64 [0x61, 0x62, 0x63] = 0x44BC2CF5AD770999 := by decide +kernel
/-- The tenant's launch table lies at flat 0, in page 0; one record is waiting in it, bad or good. -/
theorem witness_Launching :
    (let l := { aLaunch with status := LaunchStatus.pending }
     let s := launched l []
     let s := { s with cores := [] }
     s.boundary = true ∧ (s.part 1).isOpen = true ∧ liveAll s 1 = true ∧ (s.part 1).switching = none ∧ (s.part 1).resume = false ∧
        ((s.part 1).launches.map (·.id)).Nodup ∧ (s.part 1).dispatched ≠ some s.tick ∧ l.pendingAt s.tick = true ∧
        l.wait &&& (s.part 1).bitsHeld = l.wait ∧ (∀ c ∈ l.cores, coreFree s 1 c = true ∧ (s.part 1).busyHeld.getLsbD c = false) ∧
        (l.cores.all fun c => (s.group (groupOf c)).live == some 1) = true) ∧
    (let l := { aLaunch with status := LaunchStatus.chosen 0 }
     let s := { launched l [] with slot := 256, cores := [] }
     ((s.part 1).launches.find? fun x => x.id == 0) = some l ∧ s.tick = 0 + 1 ∧ ({ s with slot := 255 } : State).tick ≠ 0 + 1 ∧
        ({ s with slot := 512 } : State).tick ≠ 0 + 1 ∧ s.boundary = true ∧ ({ s with slot := 257 } : State).boundary = false ∧ l.cores.Nodup ∧ (s.part 1).isOpen = true ∧ liveAll s 1 = true ∧
        (s.part 1).switching = none ∧ (s.part 1).removal = none ∧ (s.part 1).saved = false ∧ (s.part 1).resume = false) ∧
    (let s := { launched aLaunch [] with threads := [(0, { status := .done }), (1, { status := .done }), (2, { status := .done }), (3, { status := .done })] }
     launchDone s aLaunch = true ∧ launchReleased s aLaunch = true ∧ aLaunch.status = .running ∧ liveAll s 1 = true ∧
        tagCurrent s .events (tagOf s 1) = true ∧ launchDone (launched aLaunch []) aLaunch = false) ∧
    ({ tenant [] with slot := 1 }.boundary = false) := by decide +kernel
/-- The flat space of the tenant with page 0 in the TLB through which the device reads it. -/
def tabled : State := (mapped (tenant [])).setCore 1000 { tlb := [⟨0, 0x103, 1, 0, 0, 1, 0, 0x201000, true, true, false, 0⟩] }
/-- LBASE is 0: the counts lie in page 2, where the word of an `add` reads as a nonzero flag, and the records in page 0, all zero. -/
theorem witness_Launching_consume : let s := tabled
    (1 : Nat) ≠ 0 ∧ (s.part 1).isOpen = true ∧ flatNat s 1 ((s.part 1).lbase + 0x2000) 4 = some 0x800008 ∧
      flatNat s 1 ((s.part 1).lbase + 0x2008) 4 = some 0 ∧ flatRead s 1 ((s.part 1).lbase + 0) 128 = some (List.replicate 128 0) ∧
      flatNat s 1 ((s.part 1).lbase + 0x2010) 8 = some 0 ∧ ((s.part 1).launches.filter fun l => l.status != .running).length < 64 ∧
      refuseReason s 1 (List.replicate 128 0) = some 2 ∧
      refuseReason s 1 ([8] ++ List.replicate 15 0 ++ [1] ++ List.replicate 103 0 ++ [0, 0, 0, 0, 0, 5, 0, 0]) = none := by decide +kernel
/-- Partitions 1 and 2 share group 0: 1 is live, 2 stands in the shadow bank. -/
def shared (q : Part → Part) : State :=
  let s := tenant []
  { s with
    parts := [(0, { isOpen := true }), (1, q (s.part 1)), (2, { isOpen := true, groups := 1 })],
    groups := [(0, { live := some 1, shadow := some { part := 2, threads := [(0, { hint := 1 })] } })] }
theorem witness_SlicesAndWatchdogs :
    (let s := { shared (fun q => { q with slice := some (10, 0) }) with slot := 2560, threads := [] }
     sliceOver s 1 10 0 ∧ mayExchange s 1 = true ∧ mayExchange (tenant []) 1 = false ∧ duskWaits s 1 = false ∧
       duskWaits { s with threads := [(513, { status := .waiting (.dusk 1) })] } 1 = true) ∧
    (∀ n ∈ [39999, 40000], let s := { shared (fun q => { q with switching := some { slot := 0 } }) with slot := n, threads := [] }
     (s.part 1).switching = some { slot := 0 } ∧ (0 + 40000 ≤ s.slot ↔ n = 40000) ∧ settled s 1 = true ∧ mayExchange s 1 = true) ∧
    settled (shared fun q => { q with switching := some { slot := 0 } }) 1 = false ∧
    (let s := { shared (fun q => { q with resume := true }) with threads := [(1, { running [] with status := .stopped })] }
     s.boundary = true ∧ liveAll s 1 = true ∧ (s.part 1).isOpen = true ∧ (s.part 1).resume = true ∧ (s.thread 1).status = .stopped ∧
        (∀ c ∈ liveCores s 1, (s.thread (2 * c)).pend = [] ∧ (s.thread (2 * c + 1)).pend = []) ∧ (s.part 1).slice = none ∧
        (s.part 1).resumeFrom ≤ s.slot ∧ s.slot < ((shared fun q => { q with resumeFrom := 1 }).part 1).resumeFrom) ∧
    (let s := shared fun q => { q with zeroHeld := true }
     zeroDue s 1 = true ∧ duskWaits s 1 = false ∧ (s.part 1).zeroHeld = true ∧ (s.part 1).removal = none) ∧
    (∀ n ∈ [1023, 1024], let l := { aLaunch with ticks := n }
     ((launched l []).part 1).launches.find? (fun x => x.id == 0) = some l ∧ (1024 ≤ l.ticks ↔ n = 1024) ∧ l.cores.Nodup) ∧
    (let s := { launched aLaunch [] with cycle := 1 }
     partOf s 0 = 1 ∧ (s.core 0).wdog.left ≠ 0 ∧ launchOf s 1 = some aLaunch ∧ (s.core 1).wdog.left = 0 ∧ (s.core 1).wdog.zeroAt < s.cycle ∧
       (s.core 1).wdog.fired = false ∧ (launched aLaunch []).cycle ≤ ((launched aLaunch []).core 1).wdog.zeroAt) ∧
    (∀ n ∈ [4095, 4096], let s := { shared (fun q => { q with removal := some { cycle := 0 } }) with cycle := n }
     (s.part 1).removal = some { cycle := 0 } ∧ (0 + 4096 ≤ s.cycle ↔ n = 4096)) := by
  unfold sliceOver; decide +kernel
/-- A flit of a request for output 3. -/
def aFlit (c : Option MsgClass) : Flit := { cls := c, tag := 0x103, write := true, route := [3, 8], body := 0 }
/-- In slot 0 router 0 sends what enters by input 1 out by output 3; the slot is partition 1's. -/
def fed : State := ((tenant []).setPart 1 { (tenant []).part 1 with slots := 1 }).setDie 0 { slotTable := [(0, 0x88000)] }
theorem witness_FabricErrorsPower :
    (let s := (tenant []).setDie 0 { slotPending := [(0, 0, [1])] }
     let t := { s with slot := 256 }
     slotsDue s 0 = [] ∧ t.boundary = true ∧ slotsDue t 0 ≠ [] ∧ slotsWait t = true ∧ (t.die 0).deadPorts = []) ∧
    (fedOuts fed 0 1 0 = [3] ∧ slotsWait fed = false ∧ (fed.die 0).slotSince ≤ fed.slot) ∧
    (needsOut (tenant []) 0 3 (aFlit (some .request)) = true ∧ needsOut (tenant []) 0 5 (aFlit (some .request)) = false ∧
     needsOut ((tenant []).setDie 0 { deadPorts := [3] }) 0 5 (aFlit (some .request)) = true) ∧
    ((aFlit (some .request)).cls = some .request ∧ (aFlit none).cls = none ∧ 11 < 12) ∧
    (selOf (tget (fed.die 0).slotTable 0 0) 3 = some 1 ∧ (fed.die 0).inSlot.contains (1, 0) = false ∧ outFree fed 0 3 = true ∧
     carried fed 0 1 (aFlit none) = true ∧ carried fed 0 1 { aFlit none with tag := 0x205 } = false ∧
     (let late : Flit := { aFlit (some .request) with tag := 0x102 }
      1 < 8 ∧ late.write = true ∧ tagCurrent fed (.ingress 0 1) late.tag = false ∧ tagCurrent fed (.ingress 0 1) (aFlit none).tag = true) ∧
     outFree (fed.setDie 0 { outSlot := [(3, 0)] }) 0 3 = false ∧ ((fed.setDie 0 { inSlot := [(1, 0)] }).die 0).inSlot.contains (1, 0) = true) ∧
    (tagCurrent fed (.ingress 0 11) 0x103 = true ∧ tagCurrent fed (.ingress 0 11) 0x102 = false) ∧
    (let s := (tenant []).setDie 0 { buffers := [{ port := 1, f := aFlit (some .request) }] }
     oldestFlit ((headFlits (s.die 0).buffers []).filter fun b => needsOut s 0 3 b.f) = some { port := 1, f := aFlit (some .request) } ∧
        (s.die 0).outSlot.contains (3, s.slot) = false ∧
        (s.die 0).deadPorts.contains 3 = false) ∧
    (∀ p ∈ [0, 31], p < 32 ∧ ((tenant []).die (p / 8)).deadPorts.contains (p % 8) = false) ∧
    (let c : Cut := { job := 3, tid := 513, reached := [], counts := [] }
     let s := { launched aLaunch [] with cuts := [c] }
     s.cuts = [c] ∧ (jobDies s 3).contains 0 = true ∧ c.reached.contains 0 = false) ∧
    ((headed.die 0).tcache[0]?).isSome = true ∧
    (let s := { tenant [] with groups := [(0, { live := some 1, shadow := some { part := 2, cores := [(3, {})] } })] }
     ((s.group 0).shadow.map (·.part)) = some 2 ∧ 3 ∈ groupCores 0) := by decide +kernel
/-- FIPS 180-4, the message "abc". -/
theorem test_sha256 : leNat (sha256 [0x61, 0x62, 0x63]).reverse =
    0xba7816bf8f01cfea414140de5dae2223b00361a396177a9cb410ff61f20015ad := by decide +kernel
/-- Entry 2 of partition 1 admits packets with tenancy id 0x77. -/
def admitted (tag : Tag) : State := let s := mapped (tenant [])
  s.setPart 1 { s.part 1 with ingress := [{ id := 0, valid := false, tag := 0 }, { id := 0, valid := false, tag := 0 }, { id := 0x77, valid := true, tag }],
                              events := [(9, { bit := true, tag := 0x103 })] }
theorem witness_HostAndManagement :
    (let s := admitted 0x103
     ingressOf s 0x77 = some (1, 2, 0x103) ∧ s.firmware = .running ∧ tagCurrent s (.ingress 0 2) 0x103 = true ∧
        tagCurrent s (.hostNode 0x77) 0x103 = true ∧
        16 ≤ ((s.setPart 1 { s.part 1 with eventWaits := List.replicate 16 { entry := 2, bit := 8, id := 0x77, tag := 0x103 } } |>.part 1).eventWaits.filter fun e => e.entry == 2).length ∧
        (flatPlaces s 1 8 4 .store).isSome = true ∧ (flatPlaces s 1 8 4 .atomic).isSome = true ∧
        ((flatPlaces s 1 8 4 .load).bind fun l => (readPlaces { tag := 0x103 } l s).map (·.1)) = some [0, 0, 0, 0] ∧
        eventSeen s { tag := 0x103 } 1 9 = true ∧ eventSeen s { tag := 0x103 } 1 8 = false ∧ eventSeen s { tag := 0x102 } 1 9 = false ∧
        ((s.part 1).eventWaits.filter fun e => e.entry == 2).length < 16) ∧
    tagCurrent (admitted 0x102) (.ingress 0 2) 0x102 = false ∧ tagCurrent (admitted 0x102) (.hostNode 0x77) 0x102 = false ∧ ingressOf (admitted 0x102) 0x77 = some (1, 2, 0x102) ∧
    ingressOf (admitted 0x103) 0x78 = none ∧
    (let s := (admitted 0x103).setPart 1 { (admitted 0x103).part 1 with eventWaits := [{ entry := 2, bit := 9, id := 0x77, tag := 0x103 }] }
     (s.part 1).eventWaits[0]? = some { entry := 2, bit := 9, id := 0x77, tag := 0x103 }) ∧
    State.reset.firmware ≠ .running ∧ (∀ n ∈ [32767, 32768], ({ tenant [] with hssSigned := n }.hssSigned < 32768 ↔ n = 32767)) ∧
    sessionOf ((tenant []).part 1).sessions [] = none ∧ (∀ p ∈ List.range 16, 0 < p → (({ State.reset with firmware := .running } : State).part p).isOpen = false) ∧
    (∀ i ∈ List.range 4, ownsFlat (admitted 0x103) 1 (8 + i) = true) ∧ ownsFlat (admitted 0x103) 1 (2 ^ 32) = false ∧
    (tenant []).tenantRan = false ∧ { tenant [] with tenantRan := true }.tenantRan = true ∧
    (tenant []).pkgSet = false ∧ { tenant [] with pkgSet := true }.pkgSet = true := by decide +kernel
/-- What an exchange names is a free value: options of the table, and another. -/
theorem witness_HostAndManagement_spdm (a b : List Byte) (ha : Config.spdmOptions a = [.spdm13, .sha384]) (hb : Config.spdmOptions b = [.other]) :
    Config.SpdmOption.other ∉ Config.spdmOptions a ∧ (Config.spdmOptions a).all (fun o => decide (o ≠ .other)) = true ∧
    Config.SpdmOption.other ∈ Config.spdmOptions b := by
  rw [ha, hb]; decide
theorem witness_TranslationAndSweeps :
    (let s := mapped (tenant [])
     coreFor s 0 1 = some 0 ∧ (fetchBlock s 0 0x2000).toOption.map (·.2.words.head?) = some (some 0x1001FC0000800008) ∧ 0x2000 % 8 = 0 ∧
        partOf s 0 = 1 ∧ coordsOk (coreDesc s 0 5) [1, 0, 0, 0] = true ∧
        (findShard s (s.core 0).view (coreDesc s 0 5) 5 [1, 0, 0, 0] 1 0).map (·.root) = some 0x8000 ∧
        walkPoison s 0 0x8000 0 = none ∧ shardPoison s (s.core 0).view (coreDesc s 0 5) 5 [1, 0, 0, 0] 1 0 = none ∧ (walk s 0 0x8000 0).map (·.frame) = some 0x200000 ∧ tget s.ptVersions (2 ^ 21 + 5 * 2 ^ 8) 0 = 0 ∧
        tagPart 0x103 = 1 ∧ tagCurrent s (.port 0) 0x103 = true ∧ tagCurrent s (.port 0) 0x102 = false) ∧
    (∀ n ∈ [191, 192], let s := (tenant []).setPart 1 { (tenant []).part 1 with gen := BitVec.ofNat 8 n }
     (192 ≤ ((s.part 1).gen - (s.part 1).low).toNat ↔ n = 192) ∧ s.sweeps.any (·.part == 1) = false) ∧
    { tenant [] with sweeps := [{ part := 1, s := 3, asked := none }] }.sweeps = [{ part := 1, s := 3, asked := none }] ∧
    192 ≤ ((195 : BitVec 8) - 3).toNat ∧ ((194 : BitVec 8) - 3).toNat < 192 := by decide +kernel
/-- The page of a `pull`, not valid, whose frame is there. -/
theorem witness_pull : let s := mapped (tenant [])
    (pullLeaf s 0 0xB000 1).map (fun e => (e.1, e.2.2.v, e.2.2.frame)) = some (3, false, 0x202000) ∧
     (pullLeaf s 0 0xB000 0).map (fun e => (e.1, e.2.2.v)) = some (3, true) := by decide +kernel

/-! ### Finishing, disabled instructions, the step -/

theorem witness_Finishing : (looping 2).th.loop.isSome = true ∧ (tenant []).th.loop = none ∧
    (∀ m ∈ [LoopMode.normal, .drain 1 [] [], .refill 1 [.s 1]],
     ((onTh (looping 2) fun t => { t with loop := t.loop.map fun l => { l with mode := m } }).th.loop.map (·.mode)) = some m) := by decide +kernel
/-- Stage 1 does not run in kernel iteration 0; a guard that is off on every lane. -/
theorem witness_DisabledHasNoEffect : Disabled (looping 0) ⟨1, 127, 0⟩ ∧ getOps (looping 0).th [sc 1, sc 0] = .ok [.s 8, .s 7] := by
  refine ⟨⟨by decide +kernel, by decide +kernel, by decide +kernel, .inl (by decide +kernel)⟩, by decide +kernel⟩
theorem witness_DisabledHasNoEffect_guard : Disabled (tenant [.s 7]) ⟨0, 3, 0⟩ := by
  refine ⟨by decide +kernel, by decide +kernel, by decide +kernel, .inr ⟨by decide, fun i => ?_⟩⟩
  simp [guardBit, tenant, running, State.th, State.thread, State.reset, tget, tfind]
/-- No head stands at the target of a disabled `jmp 0`. -/
theorem witness_DisabledHasNoEffect_target : headCheck (tenant [.s 7]) 0x1000 [] = true := by decide +kernel
theorem witness_Disabled_operands : getOps (tenant [.s 7]).th [sc 0] = .ok [.s 7] ∧ getOps (tenant [.s 7]).th [vc 0] = .ok [.s 7] ∧
    getRun (tenant [.s 7]).th 0 1 = .ok [.s 7] := by decide +kernel
theorem witness_DecodeEncodeRoundTrip : (Instr.add h ⟨1, 0, 0, 0, 0, 8⟩).WellFormed ∧
    decode [0x1001FC0100000008] = .ok (.add h ⟨1, 0, 0, 0, 0, 8⟩) := by
  refine ⟨?_, by decide +kernel⟩
  unfold Instr.WellFormed; decide +kernel
/-- The tenant's thread stands at flat 0x2000, where the `add` is. -/
def stepping : State := mapped (onTh (tenant [.s 2, .s 3]) fun t => { t with pc := 0x2000 })
theorem witness_StepRunsDecoded : AtInstruction (turnOf stepping) ∧
    (fetchWords (turnOf stepping) 1).toOption.map (fun e => (e.2.2.head?, placeOk (e.1.thread 1) 0x1001FC0000800008, declared e.2.1 0x1001FC0000800008)) =
     some (some 0x1001FC0000800008, true, true) ∧ assigned 0x1001FC0000800008 = true ∧ stepping.th.blk = none ∧
    (codePlace stepping 0 0x2000).toOption.map (fun e => (e.place, decide (0x2000 + 8 ≤ e.stop))) = some ({ store := .hbm 0, addr := 0x203000 }, true) ∧
    (stepping.die 0).tcache = [] ∧ (∀ i ∈ List.range 8, (freeSource stepping (whoOf stepping 1) (.hbm 0) (0x203000 + i)).isNone = true) ∧
    poisonIn stepping (whoOf stepping 1) (.hbm 0) 0x203000 8 = none ∧ wordLen 0x1001FC0000800008 = 1 ∧
    { stepping with agenda := [.event .powerOn] }.agenda = [.event .powerOn] ∧ isEvent .powerOn = true ∧
    stepping.lastSource ≤ sourceRank (coreOf stepping.cur) false + 1 ∧
    sourceRank (coreOf stepping.cur) false + 1 < { stepping with lastSource := 2000 }.lastSource ∧
    (turnOf { stepping with lastSource := 2000 }).cycle = stepping.cycle + 1 ∧
    (let s := onTh stepping fun t => { t with pc := 0x1000 }
     AtInstruction (turnOf s) ∧ stopsAt (fetchWords (turnOf s) 1) 0x10 = true) := by
  unfold AtInstruction; decide +kernel
/-- A cycle ends at a wait for a flag whose value is reached, and at one whose value is not. -/
theorem witness_StepRunsDecoded_pass : ∀ n ∈ [3, 4], let s := onTh (flagged 3) fun t => { t with status := .waiting (.flag 0 7 (BitVec.ofNat 32 n) 0 1) }
    (s.thread 1).status = .waiting (.flag 0 7 (BitVec.ofNat 32 n) 0 1) ∧ (flagRead s 1 0 7).toOption = some 3 ∧ mayRun s 1 = true ∧
      stopDue (s.thread 1) = false ∧ (0 : Nat) ≠ 4 ∧ ((3 - BitVec.ofNat 32 n).toNat < 2 ^ 31 ↔ n = 3) := by decide +kernel
/-- With a record fault pending: `trap` there comes first, a plain `add` does not. -/
theorem witness_StepRunsDecoded_pending :
    (let s := onTh stepping fun t => { t with pend := [{ cause := 0x20, rid := some 0 }] }
     mayTake s 1 = true ∧ s.th.pend ≠ [] ∧ s.th.status ≠ .done ∧ lossDue s.th = false ∧ (firstPend s.th.pend).map pendRank ≠ some 0 ∧
       (match instrStep s with | .next u => (u.thread 1).status != .trapped && u.firmware != .failed | _ => false) = true ∧
       (match instrStep (onTh s fun t => { t with pc := 0x2001 }) with | .next u => (u.thread 1).status == .trapped | _ => false) = true) ∧
    (let s := onTh stepping fun t => { t with stepMode := .fired }
     mayTake s 1 = true ∧ s.th.stepMode = .fired ∧ s.th.pend = []) ∧
    (let s := onTh stepping fun t => { t with status := .waiting (.applied [1]), pend := [{ cause := 0x1A }] }
     mayTake s 1 = true ∧ lossDue s.th = true) ∧
    (firstPend [{ cause := 0x38 }]).map pendRank = some 0 := by decide +kernel
/-- One step from there: 2 + 3 is appended. -/
theorem test_step_add : (match step stepping with | .next t => t.th.window.head? == some (.s 5) && t.th.pc == 0x2008 | _ => false) = true := by
  decide +kernel
theorem witness_RawLockKept : RawLocked { service [] with rawLocked := true } := by
  simp [RawLocked, service, tenant, State.reset]
theorem witness_CanonicalKept : (TablesOk (tenant []) ∧ MemWf (tenant [])) ∧ TablesOk State.reset ∧ MemWf State.reset :=
  ⟨tables_tenant [], by simp [TablesOk, State.reset, tsorted], by simp [MemWf, CoresWf, State.reset]⟩

/-! ## Records and system instructions (12 R243-R259, 15 R298-R309) -/

/-- The record has entered the queue `f` picks, and the thread stands past its eight words. -/
def enters (i : Instr) (s : State) (f : Core → List Rec) (op : RecOp) : Bool :=
  leaves i s fun t => ((f (t.core 0)).map (·.op)) == [op] && t.th.pc == 0x1040 && (t.core 0).nextRec == 1
theorem test_mmul_issue : enters (.mmul h noWords) (claimed 1 []) (·.matQ) .mmul = true := by decide +kernel
theorem test_mmul_no_lease : traps (.mmul h noWords) (tenant []) 0x21 = true := by decide +kernel
theorem test_mmulc_issue : enters (.mmulc h noWords) (tenant []) (·.matQ) .mmulc = true := by decide +kernel
theorem test_mmod_modulus : leaves (.mmod h { noWords with aux := 2 }) (onTh (claimed 1 []) fun t => { t with mods := [(2, 17)] })
    (fun t => ((t.core 0).matQ.map (·.q)) == [17]) = true := by decide +kernel
theorem test_mtr_issue : enters (.mtr h noWords) (claimed 1 []) (·.matQ) .mtr = true := by decide +kernel
theorem test_cp_override : leaves (.cp h { noWords with ovn := 1, ov0 := 0, w2 := 1 <<< 59 }) (tenant [.s 64]) (fun t =>
    ((t.core 0).copyQ.map (·.ov)) == [[64]]) = true := by decide +kernel
theorem test_cpcv_issue : enters (.cpcv h noWords) (tenant []) (·.copyQ) .cpcv = true := by decide +kernel
theorem test_cpdz_issue : enters (.cpdz h noWords) (tenant []) (·.copyQ) .cpdz = true := by decide +kernel
theorem test_cpbk_issue : enters (.cpbk h noWords) (tenant []) (·.copyQ) .cpbk = true := by decide +kernel
theorem test_coll_issue : enters (.coll h noWords) (tenant []) (·.collQ) .coll = true := by decide +kernel
theorem test_mig_issue : enters (.mig h noWords) (tenant []) (·.copyQ) .mig = true := by decide +kernel
theorem test_migrep_issue : enters (.migrep h noWords) (tenant []) (·.copyQ) .migrep = true := by decide +kernel
theorem test_note_nothing_ahead : leaves (.note h { noWords with aux := 2, w1 := 9 }) (tenant []) (fun t => eventBit t 1 9) = true := by
  decide +kernel
theorem test_record_disabled : leaves (.cp ⟨0, 2, 0⟩ noWords) (tenant []) (fun t => t.th.pc == 0x1040 && (t.core 0).copyQ == []) = true := by
  decide +kernel

/-- RESULT of die 0's service core. -/
def result (i : Instr) (s : State) (n : Nat) : Bool := leaves i s fun t => (t.die 0).target.toNat / 2 ^ 28 == n && t.th.pc == 0x1008
theorem test_dawn : leaves (.dawn h ⟨0, 0, 0, 0⟩) (svc 1 fun q => { q with isOpen := false }) (fun t => (t.part 1).isOpen) = true := by
  decide +kernel
theorem test_dawn_privileged : traps (.dawn h ⟨0, 0, 0, 0⟩) (tenant [.s 1]) 0x08 = true := by decide +kernel
theorem test_dusk : leaves (.dusk h ⟨0, 0, 0, 0⟩) (svc 1 id) (fun t => (t.part 1).gen == 4 && !(t.part 1).isOpen
    && t.th.window.head? == some (.s 0)) = true := by decide +kernel
theorem test_dusk_low : gives (.dusk h ⟨0, 0, 0, 0⟩) (svc 1 fun q => { q with low := 4 }) [.s 1] = true := by decide +kernel
theorem test_sweep : leaves (.sweep h ⟨0, 0, 0, 0⟩) (svc 1 id) (fun t => (t.sweeps.map (·.s)) == [3] && t.th.window.head? == some (.s 0)) = true := by
  decide +kernel
theorem test_ctxsave_no_area : gives (.ctxsave h ⟨0, 0, 0, 0⟩) (svc 1 id) [.s 3] = true := by decide +kernel
theorem test_ctxrest_open : gives (.ctxrest h ⟨0, 0, 0, 0⟩) (svc 1 id) [.s 1] = true := by decide +kernel
theorem test_part_bad_block : result (.part h ⟨0, 0, 0, 0⟩) (svc 1 id) 1 = true := by decide +kernel
theorem test_tlbi : result (.tlbi h ⟨0, 1, 0, 3⟩) (targeted id) 0 = true := by decide +kernel
theorem test_tcinv : result (.tcinv h ⟨0, 1, 0, 0⟩) (targeted id) 0 = true := by decide +kernel
theorem test_tret_restores : leaves (.tret h ⟨0, 0, 0, 0⟩) (targeted id) (fun t => (t.thread 1).status == .running) = true := by
  decide +kernel
theorem test_tret_not_trapped : result (.tret h ⟨0, 0, 0, 0⟩) (service []) 3 = true := by decide +kernel
theorem test_slotld_foreign : traps (.slotld h ⟨0, 0, 0, 0⟩) (tenant [.s 0xF00000000040]) 0x11 = true := by decide +kernel
theorem test_cutmark : leaves (.cutmark h ⟨0, 0, 0, 0⟩) (svc 3 id) (fun t => t.out == [.marker 3] && t.th.status == .waiting (.cut 3)) = true := by
  decide +kernel
theorem test_pull_no_source : gives (.pull h ⟨0, 0, 0, 0⟩) (svc 0 id) [.s 3] = true := by decide +kernel
theorem test_tdsync : gives (.tdsync h ⟨0, 0, 0, 0⟩) (svc 5 id) [.s 0] = true := by decide +kernel
theorem test_idle : leaves (.idle h ⟨0, 0, 0, 0⟩) (service []) (fun t => t.th.status == .waiting .idle) = true := by decide +kernel
theorem test_halt_no_target : result (.halt h ⟨0, 0, 0, 0⟩) (service []) 6 = true := by decide +kernel
theorem test_raw_enter : leaves (.rawEnter h ⟨0, 0, 0, 1⟩) (service []) (fun t => (t.die 0).raw && t.rawEntered) = true := by decide +kernel
theorem test_raw_enter_locked : result (.rawEnter h ⟨0, 0, 0, 1⟩) { service [] with rawLocked := true } 4 = true := by decide +kernel
theorem test_raw_leave : leaves (.rawLeave h ⟨0, 0, 0, 0⟩) ((service []).setDie 0 { raw := true }) (fun t => !(t.die 0).raw) = true := by
  decide +kernel
theorem test_raw_lock : leaves (.rawLock h ⟨0, 0, 0, 2⟩) ((service []).setDie 0 { raw := true }) (fun t => !(t.die 0).raw && t.rawLocked) = true := by
  decide +kernel

/-! ## Events -/

theorem test_record_element : leaves (.recordElement 0 0) (copying (copyRec .running 0)) (fun t => nearByte t 0x400 == 0x81
    && nearByte t 0x401 == 2 && ((t.core 0).copyQ.map (·.upc)) == [1]) = true := by decide +kernel
theorem test_launch_start : leaves (.launchStart 1 0) { launched { aLaunch with status := .chosen 0 } [] with slot := 256, cores := [] }
    (fun t => (t.thread 3).pc == 0x1000 && (t.thread 3).window == [.s 1, .s 2, .s 9] && (t.thread 2).status == .done) = true := by decide +kernel
theorem test_write_applied : leaves (.writeApplyAtHome 0) (onWay (aWrite 1 1 false)) (fun t =>
    readByte t { tag := 0x103 } (.hbm 1) 64 == 9 && (t.writes.map (·.applied)) == [true]) = true := by decide +kernel
/-- Ports lost change neither the boot count nor the firmware's state. -/
theorem losePort_keep (s : State) (n : Nat) :
    (losePort s n).boots = s.boots ∧ (losePort s n).firmware = s.firmware ∧ (losePort s n).threads = s.threads := by
  unfold losePort; dsimp only; split <;> exact ⟨rfl, rfl, rfl⟩
theorem losePorts_keep (l : List Nat) : ∀ s : State,
    (l.foldl losePort s).boots = s.boots ∧ (l.foldl losePort s).firmware = s.firmware ∧ (l.foldl losePort s).threads = s.threads := by
  induction l with
  | nil => intro s; exact ⟨rfl, rfl, rfl⟩
  | cons n l ih => intro s; simpa only [List.foldl_cons, losePort_keep] using ih (losePort s n)
theorem test_power_on : ∃ t, exec .powerOn (tenant []) = .next t ∧ t.threads = [] ∧ t.boots = 1 ∧ t.firmware = .awaiting := by
  obtain ⟨hb, hf, ht⟩ := losePorts_keep ((List.range 32).filter fun n => Config.portFails 1 n)
    { State.reset with agenda := [], cur := 1, fresh := 0, boots := 1, out := [] }
  exact ⟨_, rfl, ht, hb, hf⟩
/-- The digest of "abc" that FIPS 180-4 gives (a worked value of that standard). -/
theorem test_sha384_abc : (sha384 [0x61, 0x62, 0x63]).take 8 = [0xCB, 0x00, 0x75, 0x3F, 0x45, 0xA3, 0x5E, 0x8B] := by decide +kernel
end Sys2Proof.Tests
end

/-! ## Reading numbers as bit vectors

The model computes bits as natural numbers; these lemmas say which operation on bit vectors each of its functions is. -/

namespace Sys2Proof.Machine

open Sys2Proof

theorem add_eq_or_of_and_eq_zero {a b : Nat} (h : a &&& b = 0) : a + b = a ||| b := by
  have hlt : a + b < 2 ^ (a + b) := Nat.lt_two_pow_self
  have ha : (BitVec.ofNat (a + b) a).toNat = a := by
    rw [BitVec.toNat_ofNat, Nat.mod_eq_of_lt (by omega)]
  have hb : (BitVec.ofNat (a + b) b).toNat = b := by
    rw [BitVec.toNat_ofNat, Nat.mod_eq_of_lt (by omega)]
  have hab : BitVec.ofNat (a + b) a &&& BitVec.ofNat (a + b) b = 0#(a + b) := by
    apply BitVec.eq_of_toNat_eq
    rw [BitVec.toNat_and, ha, hb, h, BitVec.toNat_zero]
  have hsum := BitVec.toNat_add_of_and_eq_zero hab
  rwa [BitVec.add_eq_or_of_and_eq_zero _ _ hab, BitVec.toNat_or, ha, hb, eq_comm] at hsum

/-- Replacing the bits of `x` under a mask by those of `y`. -/
theorem testBit_sub_and_add_and (x y m j : Nat) :
    (x - (x &&& m) + (y &&& m)).testBit j = if m.testBit j then y.testBit j else x.testBit j := by
  have hx : Nat.ldiff x m + (x &&& m) = x := by
    rw [add_eq_or_of_and_eq_zero]
    all_goals
      apply Nat.eq_of_testBit_eq
      intro i
      simp only [Nat.testBit_or, Nat.testBit_and, Nat.testBit_ldiff, Nat.zero_testBit]
      cases x.testBit i <;> cases m.testBit i <;> rfl
  have hsub : x - (x &&& m) = Nat.ldiff x m := by omega
  rw [hsub, add_eq_or_of_and_eq_zero]
  · simp only [Nat.testBit_or, Nat.testBit_and, Nat.testBit_ldiff]
    cases m.testBit j <;> simp
  · apply Nat.eq_of_testBit_eq
    intro i
    simp only [Nat.testBit_and, Nat.testBit_ldiff, Nat.zero_testBit]
    cases m.testBit i <;> simp

theorem two_pow_dvd_iff_testBit {n x : Nat} : 2 ^ n ∣ x ↔ ∀ i < n, x.testBit i = false := by
  rw [Nat.dvd_iff_mod_eq_zero]
  constructor
  · intro h i hi
    have := congrArg (Nat.testBit · i) h
    simpa [Nat.testBit_mod_two_pow, hi] using this
  · intro h
    apply Nat.eq_of_testBit_eq
    intro i
    rw [Nat.testBit_mod_two_pow, Nat.zero_testBit]
    by_cases hi : i < n <;> simp [hi, h]

theorem signedOf_eq_toInt (w n : Nat) : signedOf w n = (BitVec.ofNat w n).toInt := by
  unfold signedOf
  rw [BitVec.toInt_eq_toNat_cond, BitVec.toNat_ofNat]
  cases w with
  | zero => simp
  | succ w =>
    have hp : 2 ^ (w + 1) = 2 * 2 ^ w := by rw [Nat.pow_succ, Nat.mul_comm]
    have hc : n % 2 ^ (w + 1) < 2 ^ (w + 1 - 1) ↔ 2 * (n % 2 ^ (w + 1)) < 2 ^ (w + 1) := by
      rw [Nat.add_sub_cancel]; omega
    by_cases h : 2 * (n % 2 ^ (w + 1)) < 2 ^ (w + 1)
    · rw [if_pos h, if_pos (hc.2 h)]
    · rw [if_neg h, if_neg (mt hc.1 h)]

theorem ofNat_wrapBits (w : Nat) (i : Int) : BitVec.ofNat w (wrapBits w i) = BitVec.ofInt w i := by
  have hp : (0 : Int) < (2 ^ w : Nat) := by exact_mod_cast Nat.two_pow_pos w
  apply BitVec.eq_of_toInt_eq
  rw [wrapBits, ← BitVec.ofInt_natCast, Int.toNat_of_nonneg (Int.emod_nonneg _ hp.ne'), BitVec.toInt_ofInt, BitVec.toInt_ofInt,
    Int.emod_bmod]

/-! ### Shifts -/

theorem ofNat_shlBits (w x c : Nat) :
    BitVec.ofNat w (shlBits w x c) = if w ≤ c then 0 else BitVec.ofNat w x <<< c := by
  unfold shlBits
  split
  · rfl
  · apply BitVec.eq_of_toNat_eq
    simp [Nat.shiftLeft_eq]

theorem ofNat_shrBits (w x c : Nat) :
    BitVec.ofNat w (shrBits w x c) = if w ≤ c then 0 else BitVec.ofNat w x >>> c := by
  unfold shrBits
  split
  · rfl
  · have hlt : x % 2 ^ w / 2 ^ c < 2 ^ w :=
      lt_of_le_of_lt (Nat.div_le_self _ _) (Nat.mod_lt _ (Nat.two_pow_pos w))
    apply BitVec.eq_of_toNat_eq
    rw [BitVec.toNat_ofNat, Nat.mod_eq_of_lt hlt, BitVec.toNat_ushiftRight, BitVec.toNat_ofNat, Nat.shiftRight_eq_div_pow]

/-- Shifting a `w`-bit value right by `w` or more leaves its sign alone. -/
theorem toInt_div_two_pow_of_le {w c : Nat} (x : BitVec w) (h : w ≤ c) :
    x.toInt / (2 ^ c : Nat) = if x.toInt < 0 then -1 else 0 := by
  have hlo := BitVec.le_two_mul_toInt (x := x)
  have hhi := BitVec.two_mul_toInt_lt (x := x)
  have hw : (0 : Int) < 2 ^ w := by positivity
  have hc : (2 : Int) ^ w ≤ (2 ^ c : Nat) := by exact_mod_cast Nat.pow_le_pow_right (by decide) h
  rw [Int.ediv_eq_iff_of_pos (by omega)]
  split <;> constructor <;> omega

theorem ofNat_sarBits (w x c : Nat) : BitVec.ofNat w (sarBits w x c) = (BitVec.ofNat w x).sshiftRight c := by
  unfold sarBits BitVec.sshiftRight
  rw [ofNat_wrapBits, signedOf_eq_toInt, Int.shiftRight_eq_div_pow]
  split
  · rw [toInt_div_two_pow_of_le _ le_rfl, toInt_div_two_pow_of_le _ ‹c ≥ w›]
  · rfl

theorem ofNat_rotlBits {w : Nat} (hw : 0 < w) (x c : Nat) :
    BitVec.ofNat w (rotlBits w x c) = (BitVec.ofNat w x).rotateLeft (c % w) := by
  have hk : c % w < w := Nat.mod_lt _ hw
  have hlow : x % 2 ^ w / 2 ^ (w - c % w) < 2 ^ (c % w) := by
    rw [Nat.div_lt_iff_lt_mul (Nat.two_pow_pos _), ← Nat.pow_add, Nat.add_sub_cancel' hk.le]
    exact Nat.mod_lt _ (Nat.two_pow_pos w)
  have hhigh : x % 2 ^ w * 2 ^ (c % w) % 2 ^ w = 2 ^ (c % w) * (x % 2 ^ w % 2 ^ (w - c % w)) := by
    rw [← Nat.mul_mod_mul_left, ← Nat.pow_add, Nat.add_sub_cancel' hk.le, Nat.mul_comm]
  have hor : rotlBits w x c = ((BitVec.ofNat w x).rotateLeft (c % w)).toNat := by
    rw [BitVec.toNat_rotateLeft, BitVec.toNat_ofNat, Nat.mod_mod, Nat.shiftLeft_eq, Nat.shiftRight_eq_div_pow, hhigh,
      ← Nat.two_pow_add_eq_or_of_lt hlow, ← hhigh, rotlBits]
  rw [hor, BitVec.ofNat_toNat, BitVec.setWidth_eq]

/-! ### Bit counts -/

theorem popBits_eq_countP (w x : Nat) : popBits w x = (List.range w).countP fun i => x.testBit i :=
  List.countP_eq_length_filter.symm

theorem popBits_le (w x : Nat) : popBits w x ≤ w := by
  rw [popBits_eq_countP]
  simpa using List.countP_le_length (p := fun i => x.testBit i) (l := List.range w)

theorem clzBits_le (w x : Nat) : clzBits w x ≤ w := by
  unfold clzBits
  split <;> omega

/-- The value has no one bit above those that follow its leading zeros. -/
theorem lt_two_pow_sub_clzBits (w x : Nat) : x % 2 ^ w < 2 ^ (w - clzBits w x) := by
  unfold clzBits
  split
  case isTrue h => rw [h]; exact Nat.two_pow_pos _
  case isFalse h =>
    have hlog : Nat.log2 (x % 2 ^ w) < w := (Nat.log2_lt h).2 (Nat.mod_lt _ (Nat.two_pow_pos w))
    have hexp : w - (w - 1 - Nat.log2 (x % 2 ^ w)) = Nat.log2 (x % 2 ^ w) + 1 := by omega
    rw [hexp]
    exact Nat.lt_log2_self

/-- The bit after its leading zeros is one. -/
theorem two_pow_le_of_clzBits_lt {w x : Nat} (h : clzBits w x < w) : 2 ^ (w - clzBits w x - 1) ≤ x % 2 ^ w := by
  unfold clzBits at h ⊢
  split at h
  case isTrue => omega
  case isFalse hx =>
    have hlog : Nat.log2 (x % 2 ^ w) < w := (Nat.log2_lt hx).2 (Nat.mod_lt _ (Nat.two_pow_pos w))
    have hexp : w - (w - 1 - Nat.log2 (x % 2 ^ w)) - 1 = Nat.log2 (x % 2 ^ w) := by omega
    rw [if_neg hx, hexp]
    exact Nat.log2_self_le hx

/-- Trailing zeros end at the first one bit. -/
theorem ctzBits_eq_findIdx (w x : Nat) : ctzBits w x = (List.range w).findIdx fun i => x.testBit i := by
  have hle := List.findIdx_le_length (p := fun i => x.testBit i) (xs := List.range w)
  simp only [ctzBits, List.takeWhile_eq_take_findIdx_not, Bool.not_not, List.length_take]
  exact Nat.min_eq_left hle

theorem ctzBits_le (w x : Nat) : ctzBits w x ≤ w := by
  rw [ctzBits_eq_findIdx]
  simpa using List.findIdx_le_length (p := fun i => x.testBit i) (xs := List.range w)

theorem testBit_of_lt_ctzBits {w x i : Nat} (h : i < ctzBits w x) : x.testBit i = false := by
  rw [ctzBits_eq_findIdx] at h
  simpa using List.not_of_lt_findIdx h

theorem testBit_ctzBits {w x : Nat} (h : ctzBits w x < w) : x.testBit (ctzBits w x) = true := by
  rw [ctzBits_eq_findIdx] at h ⊢
  have := List.findIdx_getElem (p := fun i => x.testBit i) (xs := List.range w) (w := by simpa using h)
  simpa using this

theorem two_pow_ctzBits_dvd (w x : Nat) : 2 ^ ctzBits w x ∣ x % 2 ^ w := by
  rw [two_pow_dvd_iff_testBit]
  intro i hi
  rw [Nat.testBit_mod_two_pow, testBit_of_lt_ctzBits hi, Bool.and_false]

theorem not_two_pow_succ_ctzBits_dvd {w x : Nat} (h : ctzBits w x < w) : ¬ 2 ^ (ctzBits w x + 1) ∣ x % 2 ^ w := by
  rw [two_pow_dvd_iff_testBit]
  intro hall
  have := hall _ (Nat.lt_succ_self _)
  rw [Nat.testBit_mod_two_pow, testBit_ctzBits h] at this
  simp [h] at this

end Sys2Proof.Machine

/-! ## Scalar operands and results (05 R76, 06 R94-R96) -/

namespace Sys2Proof.Machine

open Sys2Proof Sys2Proof.Spec

/-! ### Scalars of 32 and 64 bits -/

theorem width_of_isZ {t : Ty} (h : isZ t) : t.width = 32 ∨ t.width = 64 := by
  rcases h with rfl | rfl | rfl | rfl <;> decide

theorem width_le_of_isZ {t : Ty} (h : isZ t) : t.width ≤ 64 := by
  rcases width_of_isZ h with hw | hw <;> omega

theorem written_of_width64 {t : Ty} (h : t.width = 64) (r : Word) : written t r = r := by
  have hi : t ≠ .i32 := by rintro rfl; cases h
  have hw : t.width ≠ 32 := by omega
  rw [written, if_neg hi, if_neg hw]

/-- A result is written as the word of its low bits (R76). -/
theorem scalarOf_eq_written {t : Ty} (h : t.width = 32 ∨ t.width = 64) (n : Nat) :
    scalarOf t n = written t (BitVec.ofNat 64 n) := by
  unfold scalarOf written
  split
  · rw [signedOf_eq_toInt, BitVec.signExtend, BitVec.setWidth_ofNat_of_le (by decide)]
  · rcases h with h | h
    · rw [if_pos h, h, BitVec.setWidth_ofNat_of_le (by decide)]
      apply BitVec.eq_of_toNat_eq
      simp
    · have hw : t.width ≠ 32 := by omega
      rw [if_neg hw, h]
      apply BitVec.eq_of_toNat_eq
      simp

theorem scalarOf_toNat {t : Ty} (h : t.width = 32 ∨ t.width = 64) (r : Word) : scalarOf t r.toNat = written t r := by
  rw [scalarOf_eq_written h, BitVec.ofNat_toNat, BitVec.setWidth_eq]

theorem scalarOf_of_width64 {t : Ty} (h : t.width = 64) (n : Nat) : scalarOf t n = BitVec.ofNat 64 n := by
  rw [scalarOf_eq_written (.inr h), written_of_width64 h]

/-- A 32-bit result is written from its 32 bits alone. -/
theorem scalarOf_of_width32 {t : Ty} (h : t.width = 32) (n : Nat) :
    scalarOf t n = written t ((BitVec.ofNat 32 n).zeroExtend 64) := by
  have hlow : ((BitVec.ofNat 32 n).zeroExtend 64).setWidth 32 = (BitVec.ofNat 64 n).setWidth 32 := by
    rw [BitVec.setWidth_ofNat_of_le (by decide)]
    simp
  rw [scalarOf_eq_written (.inl h)]
  simp only [written, hlow, h, if_true]

/-- A count no greater than 64 is written as itself. -/
theorem scalarOf_of_le {t : Ty} (h : t.width = 32 ∨ t.width = 64) {n : Nat} (hn : n ≤ 64) :
    scalarOf t n = BitVec.ofNat 64 n := by
  unfold scalarOf signedOf
  have hmod : n % 2 ^ 32 = n := by omega
  split
  · rw [hmod, if_pos (by omega), BitVec.ofInt_natCast]
  · rw [Nat.mod_eq_of_lt]
    rcases h with h | h <;> rw [h] <;> omega

@[simp] theorem written_written (t : Ty) (r : Word) : written t (written t r) = written t r := by
  unfold written
  split
  · congr 1
    apply BitVec.eq_of_getLsbD_eq
    intro i hi
    rw [BitVec.getLsbD_setWidth, BitVec.getLsbD_signExtend]
    simp [hi, show i < 64 by omega]
  · split
    · simp
    · rfl

/-- Writing a result keeps the bits of its type. -/
theorem getLsbD_written {t : Ty} (h : t.width = 32 ∨ t.width = 64) (r : Word) {j : Nat} (hj : j < t.width) :
    (written t r).getLsbD j = r.getLsbD j := by
  have hj64 : j < 64 := by omega
  unfold written
  split
  case isTrue hi =>
    subst hi
    have hj32 : j < 32 := hj
    rw [BitVec.getLsbD_signExtend, BitVec.getLsbD_setWidth]
    simp [hj32, hj64]
  case isFalse =>
    split
    case isTrue hw =>
      have hj32 : j < 32 := by omega
      simp [hj32, hj64]
    case isFalse => rfl

theorem getLsbD_scalarOf {t : Ty} (h : t.width = 32 ∨ t.width = 64) (n : Nat) {j : Nat} (hj : j < t.width) :
    (scalarOf t n).getLsbD j = n.testBit j := by
  have hj64 : j < 64 := by omega
  rw [scalarOf_eq_written h, getLsbD_written h _ hj, BitVec.getLsbD_ofNat]
  simp [hj64]

theorem written_scalarOf {t : Ty} (h : t.width = 32 ∨ t.width = 64) (n : Nat) : written t (scalarOf t n) = scalarOf t n := by
  rw [scalarOf_eq_written h, written_written]

/-! ### Running a scalar instruction -/

section Running

variable {i : Instr} {s : State} {h : Hdr} {ws : List Word}

/-- A scalar instruction that runs appends its result and raises its flags (R94). -/
theorem does_of_scalarOp {fs : List OpField} {f : List Word → Word × Flags} (hi : exec i s = .next (scalarOp s h fs f))
    (hr : Runs s h) (ho : Reads s (fs.map sc) (ws.map .s)) : Does i s [.s (f ws).1] (f ws).2 := by
  obtain ⟨hen, hg⟩ := hr
  obtain ⟨hops, hl⟩ := ho
  have hws : (ws.map Val.s).map Val.word = ws := by
    rw [List.map_map]
    exact List.map_id ws
  rw [Does, hi, scalarOp_run hops hg hen hl, hws]

/-- A scalar instruction on the low bits of its operands writes them as its type, and raises no flag (R96). -/
theorem does_of_scalarBits {x : FmtA} {f : Nat → List Word → Nat}
    (hi : exec i s = .next (scalarBits s h x ws.length f)) (hr : Runs s h)
    (ho : Reads s ((fieldsA x ws.length).map sc) (ws.map .s)) : Does i s [.s (scalarOf (tyA x) (f (tyA x).width ws))] :=
  does_of_scalarOp hi hr ho

end Running

end Sys2Proof.Machine

/-! ## Bits, shifts, selection and `lea` (06 R98, R101, R105) -/

namespace Sys2Proof.Machine

open Sys2Proof Sys2Proof.Spec

section Bits

variable {s : State} {h : Hdr} {x : FmtA} {a b c : Word}

theorem bitwise_does (hr : Runs s h) (ho : Reads s [sc x.opa, sc x.opb] [.s a, .s b])
    (ht : (tyA x).width = 32 ∨ (tyA x).width = 64) :
    Does (.and_ h x) s [.s (written (tyA x) (a &&& b))] ∧ Does (.or_ h x) s [.s (written (tyA x) (a ||| b))] ∧
    Does (.xor_ h x) s [.s (written (tyA x) (a ^^^ b))] ∧ Does (.andn h x) s [.s (written (tyA x) (a &&& ~~~b))] := by
  simp only [← scalarOf_toNat ht]
  exact ⟨(does_of_scalarBits (i := .and_ h x) (ws := [a, b]) rfl hr ho :),
    (does_of_scalarBits (i := .or_ h x) (ws := [a, b]) rfl hr ho :),
    (does_of_scalarBits (i := .xor_ h x) (ws := [a, b]) rfl hr ho :),
    (does_of_scalarBits (i := .andn h x) (ws := [a, b]) rfl hr ho :)⟩

theorem lea_does (hr : Runs s h) (ho : Reads s [sc x.opa, sc x.opb] [.s a, .s b]) :
    Does (.lea h x) s [.s (a + b * (if (tyA x).width = 64 then 8 else 4))] := by
  have hscale : (if (tyA x).width = 64 then 8 else 4 : Word) = BitVec.ofNat 64 (if (tyA x).width = 64 then 8 else 4) := by
    split <;> rfl
  rw [hscale]
  exact (does_of_scalarOp (i := .lea h x) (fs := fieldsA x 2) (ws := [a, b]) rfl hr ho :)

/-- The shifts by the bits of their width, before they are written as its type: all 64 bits of the count are read (R98). -/
theorem shifts_do (hr : Runs s h) (ho : Reads s [sc x.opa, sc x.opb] [.s a, .s b]) :
    Does (.shl h x) s [.s (scalarOf (tyA x) (shlBits (tyA x).width a.toNat b.toNat))] ∧
    Does (.shr h x) s [.s (scalarOf (tyA x) (shrBits (tyA x).width a.toNat b.toNat))] ∧
    Does (.sar h x) s [.s (scalarOf (tyA x) (sarBits (tyA x).width a.toNat b.toNat))] ∧
    Does (.rotl h x) s [.s (scalarOf (tyA x) (rotlBits (tyA x).width a.toNat b.toNat))] :=
  ⟨(does_of_scalarBits (i := .shl h x) (ws := [a, b]) rfl hr ho :),
    (does_of_scalarBits (i := .shr h x) (ws := [a, b]) rfl hr ho :),
    (does_of_scalarBits (i := .sar h x) (ws := [a, b]) rfl hr ho :),
    (does_of_scalarBits (i := .rotl h x) (ws := [a, b]) rfl hr ho :)⟩

theorem shifts_do_of_width64 (hr : Runs s h) (ho : Reads s [sc x.opa, sc x.opb] [.s a, .s b]) (ht : (tyA x).width = 64) :
    Does (.shl h x) s [.s (if 64 ≤ b.toNat then 0 else a <<< b.toNat)] ∧
    Does (.shr h x) s [.s (if 64 ≤ b.toNat then 0 else a >>> b.toNat)] ∧
    Does (.sar h x) s [.s (a.sshiftRight b.toNat)] ∧ Does (.rotl h x) s [.s (a.rotateLeft (b.toNat % 64))] := by
  have hdo := shifts_do hr ho
  simpa only [ht, scalarOf_of_width64 ht, ofNat_shlBits, ofNat_shrBits, ofNat_sarBits, ofNat_rotlBits (w := 64) (by decide),
    BitVec.ofNat_toNat, BitVec.setWidth_eq] using hdo

theorem shifts_do_of_width32 (hr : Runs s h) (ho : Reads s [sc x.opa, sc x.opb] [.s a, .s b]) (ht : (tyA x).width = 32) :
    Does (.shl h x) s
      [.s (written (tyA x) ((if 32 ≤ b.toNat then 0 else a.setWidth 32 <<< b.toNat : BitVec 32).zeroExtend 64))] ∧
    Does (.shr h x) s
      [.s (written (tyA x) ((if 32 ≤ b.toNat then 0 else a.setWidth 32 >>> b.toNat : BitVec 32).zeroExtend 64))] ∧
    Does (.sar h x) s [.s (written (tyA x) (((a.setWidth 32).sshiftRight b.toNat).zeroExtend 64))] ∧
    Does (.rotl h x) s [.s (written (tyA x) (((a.setWidth 32).rotateLeft (b.toNat % 32)).zeroExtend 64))] := by
  have hdo := shifts_do hr ho
  simpa only [ht, scalarOf_of_width32 ht, ofNat_shlBits, ofNat_shrBits, ofNat_sarBits, ofNat_rotlBits (w := 32) (by decide),
    BitVec.ofNat_toNat] using hdo

theorem sel_does (hr : Runs s h) (ho : Reads s [sc x.opa, sc x.opb, sc x.opc] [.s a, .s b, .s c])
    (ht : (tyA x).width = 32 ∨ (tyA x).width = 64) :
    Does (.sel h x) s [.s (written (tyA x) (if c.toNat % 2 ^ (tyA x).width = 0 then b else a))] := by
  have hdo : Does (.sel h x) s
      [.s (scalarOf (tyA x) (if c.toNat % 2 ^ (tyA x).width ≠ 0 then a.toNat else b.toNat))] :=
    (does_of_scalarBits (i := .sel h x) (ws := [a, b, c]) rfl hr ho :)
  by_cases hc : c.toNat % 2 ^ (tyA x).width = 0 <;> simpa [hc, scalarOf_toNat ht] using hdo

end Bits

/-- Settles O3: each instruction is one on bit vectors of its width, for which the shift functions of the model are the
shifts of bit vectors. -/
theorem scalarBitsAndShifts : Obligations.ScalarBitsAndShifts := by
  intro s h x a b c hr hty
  have ht : (tyA x).width = 32 ∨ (tyA x).width = 64 := hty.elim width_of_isZ fun hf => .inl (by rw [hf]; rfl)
  constructor
  · intro ho _
    obtain ⟨hand, hor, hxor, handn⟩ := bitwise_does hr ho ht
    exact ⟨hand, hor, hxor, handn, lea_does hr ho, shifts_do_of_width64 hr ho, shifts_do_of_width32 hr ho⟩
  · intro ho
    exact sel_does hr ho ht

end Sys2Proof.Machine

/-! ## Counts, comparison, bit fields and the bit network (06 R99, R100, R102, R103) -/

namespace Sys2Proof.Machine

open Sys2Proof Sys2Proof.Spec

/-! ### Comparison -/

@[simp] theorem Num.sn_ofInt (i : Int) : (Num.ofInt i).sn = i := by
  simp only [Num.ofInt, Num.sn, decide_eq_true_eq]
  split <;> omega

theorem cmpNum_ofInt (m n : Int) :
    cmpNum (Num.ofInt m) (Num.ofInt n) = if m < n then -1 else if n < m then 1 else 0 := by
  have hlt : ∀ i j : Int, Num.lt (Num.ofInt i) (Num.ofInt j) = decide (i < j) := by
    intro i j
    have : Num.lt (Num.ofInt i) (Num.ofInt j) = decide ((Num.ofInt i).sn * (1 : Nat) < (Num.ofInt j).sn * (1 : Nat)) := rfl
    simpa using this
  have hnan : ∀ i : Int, (Num.ofInt i).isNan = false := fun _ => rfl
  simp only [cmpNum, hnan, hlt, Bool.or_false, Bool.false_eq_true, if_false, decide_eq_true_eq]

/-- An integer operand without NEG and ABS is the integer it holds (R49, R96). -/
theorem operandNum_of_plain {t : Ty} {f : OpField} {n : Nat} {i : Int} (hf : plain f) (hn : numOf t n = Num.ofInt i) :
    operandNum t f n = Num.ofInt i := by
  obtain ⟨habs, hneg⟩ := hf
  have hzero : (decide (i < 0) && (t.isFloat || i.natAbs != 0)) = decide (i < 0) := by
    by_cases hi : i < 0
    · have : (i.natAbs != 0) = true := by simp; omega
      simp [this]
    · simp [hi]
  rw [operandNum, modify, habs, hneg, hn]
  simp only [Bool.false_eq_true, if_false, Num.ofInt, hzero]

theorem opv_of_plain_i64 {x : FmtA} {f : OpField} (ht : tyA x = .i64) (hf : plain f) (a : Word) :
    opv x f a = Num.ofInt a.toInt := by
  have hn : numOf .i64 (a.toNat % 2 ^ Ty.i64.width) = Num.ofInt (signedOf 64 (a.toNat % 2 ^ 64)) := rfl
  rw [opv, scalarNum, ht, operandNum_of_plain hf hn, signedOf_eq_toInt, Nat.mod_eq_of_lt a.isLt, BitVec.ofNat_toNat,
    BitVec.setWidth_eq]

theorem opv_of_plain_n64 {x : FmtA} {f : OpField} (ht : tyA x = .n64) (hf : plain f) (a : Word) :
    opv x f a = Num.ofInt a.toNat := by
  have hn : numOf .n64 (a.toNat % 2 ^ Ty.n64.width) = Num.ofInt ((a.toNat % 2 ^ 64 % 2 ^ 64 : Nat) : Int) := rfl
  rw [opv, scalarNum, ht, operandNum_of_plain hf hn, Nat.mod_eq_of_lt a.isLt, Nat.mod_eq_of_lt a.isLt]

/-- The code of a comparison of two integers, as the word it is appended in. -/
theorem ofInt_cmpNum_ofInt (m n : Int) :
    BitVec.ofInt 64 (cmpNum (Num.ofInt m) (Num.ofInt n)) = if m < n then -1 else if m = n then 0 else (1 : Word) := by
  rw [cmpNum_ofInt]
  rcases lt_trichotomy m n with hlt | rfl | hgt
  · simp [hlt]
  · simp
  · simp [hgt, hgt.ne', hgt.not_gt]

/-! ### Bit fields -/

/-- Bit `k` of a field that starts at `lsb` of the extended value `e`: the fill beyond bit 63 (R102). -/
def fieldBit (signed : Bool) (e : Word) (lsb k : Nat) : Bool :=
  if lsb + k ≤ 63 then e.getLsbD (lsb + k) else signed && e.getLsbD 63

/-- The extended value with its fill, as far as a field reaches. -/
def extendWide (signed : Bool) (e : Word) : BitVec 256 := if signed then e.signExtend 256 else e.zeroExtend 256

theorem getLsbD_extendWide (signed : Bool) (e : Word) {lsb k : Nat} (h : lsb + k < 256) :
    (extendWide signed e).getLsbD (lsb + k) = fieldBit signed e lsb k := by
  cases signed
  · by_cases hk : lsb + k ≤ 63
    · simp [extendWide, fieldBit, h, hk]
    · simp [extendWide, fieldBit, h, hk, BitVec.getLsbD_of_ge e (lsb + k) (by omega)]
  · have hle : lsb + k ≤ 63 ↔ lsb + k < 64 := by omega
    simp only [extendWide, fieldBit, if_true, BitVec.getLsbD_signExtend, h, decide_true, Bool.true_and, hle,
      BitVec.msb_eq_getLsbD_last]

theorem toNat_extendWide (signed : Bool) (e : Word) :
    (extendWide signed e).toNat = if signed ∧ e.toNat.testBit 63 then e.toNat + (2 ^ 256 - 2 ^ 64) else e.toNat := by
  have hmod : e.toNat % 2 ^ 256 = e.toNat := Nat.mod_eq_of_lt (by omega)
  cases signed
  · simp only [extendWide, Bool.false_eq_true, if_false, false_and, BitVec.toNat_setWidth, hmod]
  · simp only [extendWide, if_true, BitVec.toNat_signExtend, BitVec.toNat_setWidth, hmod, true_and, BitVec.msb_eq_getLsbD_last,
      BitVec.testBit_toNat]
    split <;> rfl

theorem extendTo64_eq {t : Ty} (h : t.width = 32 ∨ t.width = 64) (a : Word) : extendTo64 t a = (written t a).toNat := by
  rw [extendTo64, scalarOf_toNat h]

/-- `bfx` cuts its field out of the extended value and extends it to 64 bits as its type says (R102). -/
theorem bfxBits_eq {t : Ty} (h : t.width = 32 ∨ t.width = 64) (a ctl : Word) (hlen : ctl.toNat / 256 % 128 ≠ 0) :
    let f := (extendWide (Ty.isSigned t) (written t a)).extractLsb' (ctl.toNat % 64) (ctl.toNat / 256 % 128)
    bfxBits t a ctl = (if Ty.isSigned t then f.signExtend 64 else f.zeroExtend 64 : Word).toNat := by
  intro f
  have hf : (extendWide (Ty.isSigned t) (written t a)).toNat / 2 ^ (ctl.toNat % 64) % 2 ^ (ctl.toNat / 256 % 128) = f.toNat := by
    rw [BitVec.extractLsb'_toNat, Nat.shiftRight_eq_div_pow]
  rw [toNat_extendWide] at hf
  simp only [bfxBits, extendTo64_eq h, show 2 ^ 8 = 256 from rfl, hlen, if_false, hf]
  split
  · rw [signedOf_eq_toInt, BitVec.ofNat_toNat, BitVec.setWidth_eq, BitVec.signExtend, BitVec.toNat_ofInt, wrapBits]
  · rw [BitVec.toNat_setWidth]

theorem testBit_bfxBits {t : Ty} (h : t.width = 32 ∨ t.width = 64) (a ctl : Word) {j : Nat} (hj : j < 64) :
    (bfxBits t a ctl).testBit j =
      (if ctl.toNat / 256 % 128 = 0 then false
        else if j < ctl.toNat / 256 % 128 then fieldBit (Ty.isSigned t) (written t a) (ctl.toNat % 64) j
        else Ty.isSigned t && fieldBit (Ty.isSigned t) (written t a) (ctl.toNat % 64) (ctl.toNat / 256 % 128 - 1)) := by
  by_cases hlen : ctl.toNat / 256 % 128 = 0
  · simp [bfxBits, hlen]
  · have hbit : ∀ k < ctl.toNat / 256 % 128,
        ((extendWide (Ty.isSigned t) (written t a)).extractLsb' (ctl.toNat % 64) (ctl.toNat / 256 % 128)).getLsbD k =
          fieldBit (Ty.isSigned t) (written t a) (ctl.toNat % 64) k := by
      intro k hk
      rw [BitVec.getLsbD_extractLsb', getLsbD_extendWide _ _ (by omega)]
      simp [hk]
    rw [bfxBits_eq h a ctl hlen, if_neg hlen, BitVec.testBit_toNat]
    cases hs : Ty.isSigned t
    all_goals rw [hs] at hbit
    · by_cases hjl : j < ctl.toNat / 256 % 128
      · simpa [hjl, hj] using hbit j hjl
      · simp [hjl, BitVec.getLsbD_of_ge _ j (Nat.not_lt.1 hjl)]
    · simp only [if_true, BitVec.getLsbD_signExtend, hj, decide_true, Bool.true_and, BitVec.msb_eq_getLsbD_last]
      by_cases hjl : j < ctl.toNat / 256 % 128
      · rw [if_pos hjl, if_pos hjl, hbit j hjl]
      · rw [if_neg hjl, if_neg hjl, hbit _ (by omega)]

/-- `bfi` replaces the bits of its field and keeps the others (R102). -/
theorem testBit_bfiBits (w : Nat) (a b ctl : Word) {j : Nat} (hj : j < w) :
    (bfiBits w a b ctl).testBit j =
      (if ctl.toNat % 64 ≤ j ∧ j < ctl.toNat % 64 + ctl.toNat / 256 % 128 then b.getLsbD (j - ctl.toNat % 64)
        else a.getLsbD j) := by
  have hfield : ∀ lsb len : Nat, ((2 ^ len - 1) * 2 ^ lsb % 2 ^ w).testBit j = decide (lsb ≤ j ∧ j < lsb + len) := by
    intro lsb len
    rw [Nat.testBit_mod_two_pow, Nat.testBit_mul_two_pow, Nat.testBit_two_pow_sub_one, ← Bool.decide_and, ← Bool.decide_and]
    exact decide_eq_decide.2 (by omega)
  simp only [bfiBits, show 2 ^ 8 = 256 from rfl, testBit_sub_and_add_and, hfield, decide_eq_true_eq]
  split
  case isTrue hin => simp [Nat.testBit_mod_two_pow, Nat.testBit_mul_two_pow, hj, hin.1, BitVec.testBit_toNat]
  case isFalse => simp [Nat.testBit_mod_two_pow, hj, BitVec.testBit_toNat]

/-! ### The bit network -/

theorem testBit_add_two_pow {m n : Nat} (h : m < 2 ^ n) (i : Nat) :
    (m + 2 ^ n).testBit i = (m.testBit i || decide (n = i)) := by
  rw [Nat.add_comm, ← Nat.mul_one (2 ^ n), Nat.two_pow_add_eq_or_of_lt h, Nat.mul_one, Nat.testBit_or, Nat.testBit_two_pow,
    Bool.or_comm]

/-- A sum of the powers of two that `p` selects has the bits `p` selects. -/
theorem testBit_foldl_two_pow (p : Nat → Bool) (n i : Nat) :
    ((List.range n).foldl (fun acc j => if p j then acc + 2 ^ j else acc) 0).testBit i = (decide (i < n) && p i) := by
  induction n generalizing i with
  | zero => simp
  | succ n ih =>
    have hlt : (List.range n).foldl (fun acc j => if p j then acc + 2 ^ j else acc) 0 < 2 ^ n :=
      Nat.lt_pow_two_of_testBit _ fun k hk => by rw [ih]; simp [hk.not_gt]
    have hstep : ((List.range (n + 1)).foldl (fun acc j => if p j then acc + 2 ^ j else acc) 0).testBit i =
        ((decide (i < n) && p i) || (p n && decide (n = i))) := by
      rw [List.range_succ, List.foldl_append, List.foldl_cons, List.foldl_nil]
      cases p n
      · simp [ih]
      · simp [testBit_add_two_pow hlt, ih]
    rw [hstep]
    by_cases hi : n = i
    · simp [hi]
    · have hsucc : i < n + 1 ↔ i < n := by omega
      simp [hi, hsucc]

/-- The bit that pattern byte `p` selects: none, or the one of `a` at its low six bits, inverted or not (R103). -/
def patternBit (a : Word) (p : Byte) : Bool := !p.getLsbD 7 && (a.getLsbD (p.extractLsb' 0 6).toNat != p.getLsbD 6)

theorem patternBit_eq (a : Word) (p : Byte) :
    patternBit a p = (if p.toNat ≥ 128 then false else (a.getLsbD (p.toNat % 64) != decide (p.toNat / 64 % 2 = 1))) := by
  have h7 : p.getLsbD 7 = decide (p.toNat ≥ 128) := by
    rw [← BitVec.testBit_toNat, Nat.testBit_eq_decide_div_mod_eq]
    exact decide_eq_decide.2 (by omega)
  have h6 : p.getLsbD 6 = decide (p.toNat / 64 % 2 = 1) := by
    rw [← BitVec.testBit_toNat, Nat.testBit_eq_decide_div_mod_eq]
  rw [patternBit, h7, h6, BitVec.extractLsb'_toNat, Nat.shiftRight_zero]
  split
  case isTrue hge => simp [hge]
  case isFalse hge => simp [hge]

theorem getLsbD_bitNet (pat : BitVec 512) (a : Word) {j : Nat} (hj : j < 64) :
    (bitNet pat a).getLsbD j = patternBit a (pat.extractLsb' (8 * j) 8) := by
  unfold bitNet
  simp only [← patternBit_eq]
  rw [BitVec.getLsbD_ofNat, testBit_foldl_two_pow fun j => patternBit a (pat.extractLsb' (8 * j) 8)]
  simp [hj]

/-! ### The instructions -/

section Counts

variable {s : State} {h : Hdr} {x : FmtA} {a b c : Word}

/-- The counts of a scalar, appended as they are for every type. -/
theorem counts_do (hr : Runs s h) (ho : Reads s [sc x.opa] [.s a]) (ht : isZ (tyA x)) :
    Does (.clz h x) s [.s (BitVec.ofNat 64 (clzBits (tyA x).width a.toNat))] ∧
    Does (.ctz h x) s [.s (BitVec.ofNat 64 (ctzBits (tyA x).width a.toNat))] ∧
    Does (.popc h x) s [.s (BitVec.ofNat 64 (popBits (tyA x).width a.toNat))] := by
  have hw := width_of_isZ ht
  have hle := width_le_of_isZ ht
  rw [← scalarOf_of_le hw ((clzBits_le _ _).trans hle), ← scalarOf_of_le hw ((ctzBits_le _ _).trans hle),
    ← scalarOf_of_le hw ((popBits_le _ _).trans hle)]
  exact ⟨(does_of_scalarBits (i := .clz h x) (ws := [a]) rfl hr ho :),
    (does_of_scalarBits (i := .ctz h x) (ws := [a]) rfl hr ho :),
    (does_of_scalarBits (i := .popc h x) (ws := [a]) rfl hr ho :)⟩

theorem cmp3_does (hr : Runs s h) (ho : Reads s [sc x.opa, sc x.opb] [.s a, .s b]) :
    Does (.cmp3 h x) s [.s (BitVec.ofInt 64 (cmpNum (opv x x.opa a) (opv x x.opb b)))]
      (flagIf ((opv x x.opa a).isSig || (opv x x.opb b).isSig) fINV) :=
  (does_of_scalarOp (i := .cmp3 h x) (fs := fieldsA x 2) (ws := [a, b]) rfl hr ho :)

/-- Integers compare by their values, and raise no flag (R100). -/
theorem cmp3_does_ofInt (hr : Runs s h) (ho : Reads s [sc x.opa, sc x.opb] [.s a, .s b]) {m n : Int}
    (hm : opv x x.opa a = Num.ofInt m) (hn : opv x x.opb b = Num.ofInt n) :
    Does (.cmp3 h x) s [.s (if m < n then -1 else if m = n then 0 else 1)] := by
  have hdo := cmp3_does hr ho
  rw [hm, hn, ofInt_cmpNum_ofInt] at hdo
  exact hdo

theorem cmp3_does_i64 (hr : Runs s h) (ho : Reads s [sc x.opa, sc x.opb] [.s a, .s b]) (hx : plainA x 0x08) :
    Does (.cmp3 h x) s [.s (if a.slt b then -1 else if a = b then 0 else 1)] := by
  obtain ⟨htyp, -, -, hpa, hpb, -⟩ := hx
  have ht : tyA x = .i64 := by rw [tyA, htyp]; rfl
  have hdo := cmp3_does_ofInt hr ho (opv_of_plain_i64 ht hpa a) (opv_of_plain_i64 ht hpb b)
  simpa only [BitVec.slt_iff_toInt_lt, BitVec.toInt_inj] using hdo

theorem cmp3_does_n64 (hr : Runs s h) (ho : Reads s [sc x.opa, sc x.opb] [.s a, .s b]) (hx : plainA x 0x09) :
    Does (.cmp3 h x) s [.s (if a < b then -1 else if a = b then 0 else 1)] := by
  obtain ⟨htyp, -, -, hpa, hpb, -⟩ := hx
  have ht : tyA x = .n64 := by rw [tyA, htyp]; rfl
  have hdo := cmp3_does_ofInt hr ho (opv_of_plain_n64 ht hpa a) (opv_of_plain_n64 ht hpb b)
  simpa only [Int.ofNat_lt, Int.ofNat_inj, BitVec.lt_def, BitVec.toNat_inj] using hdo

theorem bfx_does (hr : Runs s h) (ho : Reads s [sc x.opa, sc x.opb] [.s a, .s b]) :
    Does (.bfx h x) s [.s (scalarOf (tyA x) (bfxBits (tyA x) a b))] :=
  (does_of_scalarBits (i := .bfx h x) (ws := [a, b]) rfl hr ho :)

theorem bfi_does (hr : Runs s h) (ho : Reads s [sc x.opa, sc x.opb, sc x.opc] [.s a, .s b, .s c]) :
    Does (.bfi h x) s [.s (scalarOf (tyA x) (bfiBits (tyA x).width a b c))] :=
  (does_of_scalarBits (i := .bfi h x) (ws := [a, b, c]) rfl hr ho :)

theorem bnet_does (hr : Runs s h) (ho : Reads s [sc x.opa] [.s a]) :
    Does (.bnet h x) s [.s (bitNet (patternOf s x.typ.toNat) a)] :=
  (does_of_scalarOp (i := .bnet h x) (fs := [x.opa]) (ws := [a]) rfl hr ho :)

end Counts

/-- Settles O4: each count, comparison and bit of a field is what the function of the model that computes it gives. -/
theorem scalarCountsAndFields : Obligations.ScalarCountsAndFields := by
  intro s h x a b c hr w v
  refine ⟨fun ho ht => ?counts, cmp3_does_i64 hr, cmp3_does_n64 hr, cmp3_does hr, fun ho ht => ?bfx, fun ho ht => ?bfi,
    fun ho => ?bnet⟩
  case counts =>
    obtain ⟨hclz, hctz, hpopc⟩ := counts_do hr ho ht
    refine ⟨⟨_, hclz, clzBits_le _ _, lt_two_pow_sub_clzBits _ _, two_pow_le_of_clzBits_lt⟩,
      ⟨_, hctz, ctzBits_le _ _, two_pow_ctzBits_dvd _ _, not_two_pow_succ_ctzBits_dvd⟩, ?_⟩
    simpa only [popBits_eq_countP, BitVec.testBit_toNat] using hpopc
  case bfx =>
    have hw := width_of_isZ ht
    have hle := width_le_of_isZ ht
    refine ⟨_, bfx_does hr ho, (written_scalarOf hw _).symm, fun j hj => ?_⟩
    rw [getLsbD_scalarOf hw _ hj]
    exact testBit_bfxBits hw a b (hj.trans_le hle)
  case bfi =>
    have hw := width_of_isZ ht
    refine ⟨_, bfi_does hr ho, (written_scalarOf hw _).symm, fun j hj => ?_⟩
    rw [getLsbD_scalarOf hw _ hj]
    exact testBit_bfiBits _ a b c hj
  case bnet => exact ⟨_, bnet_does hr ho, fun j hj => getLsbD_bitNet _ a hj⟩

end Sys2Proof.Machine

/-! ## Immediates (06 R107) -/

namespace Sys2Proof

/-- A word passes its checks when each of them holds (R72). -/
theorem firstBad_eq_none_iff {l : List (Bool × Reject)} : firstBad l = none ↔ ∀ e ∈ l, e.1 = true := by
  induction l with
  | nil => simp [firstBad]
  | cons e l ih =>
    obtain ⟨ok, r⟩ := e
    cases ok <;> simp [firstBad, ih]

theorem opOk_of_fmtI {h : Hdr} {x : FmtI} {src : Bool} (hc : firstBad (fmtI h x src) = none) : opOk src false x.opa = true :=
  firstBad_eq_none_iff.1 hc (opOk src false x.opa, .operand) (by simp [fmtI])

end Sys2Proof

namespace Sys2Proof.Machine

open Sys2Proof Sys2Proof.Spec

/-- A field accepted where NEG and ABS are not has neither (R49). -/
theorem plain_of_opOk {f : OpField} (h : opOk true false f = true) : plain f := by
  have hz : f.extractLsb' 7 2 = 0#2 := by simpa [opOk] using h
  constructor
  · simpa using congrArg (BitVec.getLsbD · 0) hz
  · simpa using congrArg (BitVec.getLsbD · 1) hz

/-- A field without KND reads the window position it names (R48). -/
theorem getOp_of_window {t : Thread} {f : OpField} {v : Val} (n : Need) (hf : opSlot f = false)
    (hv : t.window[opIdx f]? = some v) : getOp t n f = if n = .s ∧ v.isVec = true then .error 2 else .ok v := by
  unfold getOp
  rw [hf, hv]
  rfl

/-- A window position that holds a vector is no scalar operand: cause 0x02 (R50). -/
theorem getOp_of_namesVector {s : State} {f : OpField} (h : NamesVector s f) : getOp s.th .s f = .error 2 := by
  obtain ⟨hslot, v, hv, hvec⟩ := h
  rw [getOp_of_window .s hslot hv, if_pos ⟨rfl, hvec⟩]

/-! ### The immediates with a source -/

/-- The immediate instructions that read OPA. -/
def sourceImmediates (h : Hdr) (x : FmtI) : List Instr :=
  [.lih h x, .addi h x, .andi h x, .ori h x, .xori h x, .shli h x, .shri h x, .sari h x]

section Sources

variable {s : State} {h : Hdr} {x : FmtI} {k : Instr}

theorem exec_sourceImmediate (hk : k ∈ sourceImmediates h x) (s : State) : ∃ f, exec k s = .next (immOp s h x f) := by
  simp only [sourceImmediates, List.mem_cons, List.not_mem_nil, or_false] at hk
  rcases hk with rfl | rfl | rfl | rfl | rfl | rfl | rfl | rfl <;> exact ⟨_, rfl⟩

theorem check_sourceImmediate (hk : k ∈ sourceImmediates h x) : check k = firstBad (fmtI h x true) := by
  simp only [sourceImmediates, List.mem_cons, List.not_mem_nil, or_false] at hk
  rcases hk with rfl | rfl | rfl | rfl | rfl | rfl | rfl | rfl <;> rfl

/-- A vector at OPA is a cause of the word, which comes before its guard and stage (R55). -/
theorem sourceImmediate_traps (hk : k ∈ sourceImmediates h x) (hv : NamesVector s x.opa) :
    exec k s = .next (raise s (wordTrap s.th 0x02)) := by
  obtain ⟨f, hf⟩ := exec_sourceImmediate hk s
  have hops : getOps s.th ([x.opa].map fun o => (Need.s, o)) = .error 2 := by
    simp only [List.map_cons, List.map_nil, getOps, getOp_of_namesVector hv]
  rw [hf, immOp, scalarOp, ofThread_error (onThread_error hops)]

theorem not_wellFormed_sourceImmediate (hk : k ∈ sourceImmediates h x) (hx : ¬ plain x.opa) : ¬ k.WellFormed := by
  intro hwf
  rw [Instr.WellFormed, check_sourceImmediate hk] at hwf
  exact hx (plain_of_opOk (opOk_of_fmtI hwf))

/-- `li` and `lf` do not use OPA, which is 0 in them. -/
theorem opa_eq_zero_of_fmtI (hc : firstBad (fmtI h x false) = none) : x.opa = 0 := by
  simpa [opOk] using opOk_of_fmtI hc

end Sources

/-! ### Their values -/

section Values

variable {s : State} {h : Hdr} {x : FmtI} {a : Word}

theorem does_of_immOp {i : Instr} {f : Word → Word} (hi : exec i s = .next (immOp s h x f)) (hr : Runs s h)
    (ho : Reads s [sc x.opa] [.s a]) : Does i s [.s (f a)] :=
  (does_of_scalarOp (fs := [x.opa]) (ws := [a]) hi hr ho :)

theorem loads_do (hr : Runs s h) :
    Does (.li h x) s [.s (x.imm.signExtend 64)] ∧ Does (.lf h x) s [.s (x.imm.zeroExtend 64)] := by
  have ho : Reads s (([] : List OpField).map sc) (([] : List Word).map .s) := ⟨getOps_nil _, rfl⟩
  exact ⟨(does_of_scalarOp (i := .li h x) rfl hr ho :), (does_of_scalarOp (i := .lf h x) rfl hr ho :)⟩

/-- `lih` moves the low half up and puts IMM32 in its place. -/
theorem shiftLeft_or_uimm (a : Word) (x : FmtI) : (a <<< 32) ||| uimm x = (a.setWidth 32 ++ x.imm : Word) := by
  apply BitVec.eq_of_getLsbD_eq
  intro i hi
  rw [BitVec.getLsbD_append, uimm, BitVec.getLsbD_or, BitVec.getLsbD_shiftLeft, BitVec.getLsbD_setWidth, BitVec.getLsbD_setWidth]
  by_cases hlow : i < 32
  · simp [hlow, hi]
  · simp [hlow, hi, BitVec.getLsbD_of_ge x.imm i (Nat.not_lt.1 hlow), show i - 32 < 32 by omega]

theorem arithmetic_immediates_do (hr : Runs s h) (ho : Reads s [sc x.opa] [.s a]) :
    Does (.lih h x) s [.s (a.setWidth 32 ++ x.imm)] ∧ Does (.addi h x) s [.s (a + x.imm.signExtend 64)] ∧
    Does (.andi h x) s [.s (a &&& x.imm.signExtend 64)] ∧ Does (.ori h x) s [.s (a ||| x.imm.zeroExtend 64)] ∧
    Does (.xori h x) s [.s (a ^^^ x.imm.zeroExtend 64)] := by
  rw [← shiftLeft_or_uimm]
  exact ⟨(does_of_immOp (i := .lih h x) rfl hr ho :), (does_of_immOp (i := .addi h x) rfl hr ho :),
    (does_of_immOp (i := .andi h x) rfl hr ho :), (does_of_immOp (i := .ori h x) rfl hr ho :),
    (does_of_immOp (i := .xori h x) rfl hr ho :)⟩

theorem shift_immediates_do (hr : Runs s h) (ho : Reads s [sc x.opa] [.s a]) :
    Does (.shli h x) s [.s (if 64 ≤ x.imm.toNat then 0 else a <<< x.imm.toNat)] ∧
    Does (.shri h x) s [.s (if 64 ≤ x.imm.toNat then 0 else a >>> x.imm.toNat)] ∧
    Does (.sari h x) s [.s (a.sshiftRight x.imm.toNat)] := by
  have hshl := does_of_immOp (i := .shli h x) rfl hr ho
  have hshr := does_of_immOp (i := .shri h x) rfl hr ho
  have hsar := does_of_immOp (i := .sari h x) rfl hr ho
  simp only [ofNat_shlBits, ofNat_shrBits, ofNat_sarBits, BitVec.ofNat_toNat, BitVec.setWidth_eq] at hshl hshr hsar
  exact ⟨hshl, hshr, hsar⟩

end Values

/-- Settles O6, the values by those of the shared scalar operation, the causes and the checks once for all instructions that
read OPA. -/
theorem immediates : Obligations.Immediates := by
  refine ⟨fun s h x a => ⟨fun hr => ?values, ?traps, ?fields, ?unused⟩, by decide⟩
  case values =>
    obtain ⟨hli, hlf⟩ := loads_do (x := x) hr
    refine ⟨hli, hlf, fun ho => ?_⟩
    obtain ⟨hlih, haddi, handi, hori, hxori⟩ := arithmetic_immediates_do hr ho
    exact ⟨hlih, haddi, handi, hori, hxori, shift_immediates_do hr ho⟩
  case traps => exact fun _ hv _ hk => sourceImmediate_traps hk hv
  case fields => exact fun hx _ hk => not_wellFormed_sourceImmediate hk hx
  case unused => exact fun hx => ⟨fun hwf => hx (opa_eq_zero_of_fmtI hwf), fun hwf => hx (opa_eq_zero_of_fmtI hwf)⟩

end Sys2Proof.Machine

/-! ## Prefetch and pattern loads (10 R184, 12 R240) -/

namespace Sys2Proof.Machine

open Sys2Proof Sys2Proof.Spec

/-- An effect that no queue load keeps waiting happens now (R196). -/
theorem holdLoads_of_free {s : State} (hf : Free s) (f : Unit → State) : holdLoads s f = f () := by
  unfold holdLoads
  rcases hf with hexe | hsettled
  · simp [hexe]
  · simp [hsettled]

/-- An instruction that runs, with operands it can read, has its effect. -/
theorem exec_of_effectOp {i : Instr} {s : State} {h : Hdr} {ops : List (Need × OpField)} {vs zeros : List Val}
    {f : List Val → State} (hi : exec i s = .next (effectOp s h (getOps s.th ops) zeros f)) (hr : Runs s h)
    (ho : Reads s ops vs) : exec i s = .next (f vs) := by
  obtain ⟨hen, hg⟩ := hr
  obtain ⟨hops, hl⟩ := ho
  rw [hi, effectOp_run hops hg hen hl]

theorem pref_does {s : State} {h : Hdr} {x : FmtM} {a : Word} (hr : Runs s h) (ho : Reads s [sc x.opa] [.s a]) :
    Does (.pref h x) s [] :=
  exec_of_effectOp (i := .pref h x) rfl hr ho

section PatternLoad

variable {s : State} {h : Hdr} {x : FmtS} {a : Word}

/-- The pattern's bytes are checked before queue loads are waited for: their cause is raised at once. -/
theorem bnld_raises {t : Trap} (hr : Runs s h) (ho : Reads s [sc x.opa] [.s a])
    (ht : flatLocs s s.cur a.toNat 64 64 .load = .error t) : exec (.bnld h x) s = .next (raise s t) := by
  rw [exec_of_effectOp (i := .bnld h x) rfl hr ho]
  simp only [arg, List.getD_cons_zero, Val.word, ht]

/-- The new pattern carries the tag of the tenancy in which it was read, before the memory ports are asked (R262). -/
theorem bnld_loads {ls : List Loc} {ws : List Nat} {s0 : State} (hr : Runs s h) (ho : Reads s [sc x.opa] [.s a]) (hf : Free s)
    (hls : flatLocs s s.cur a.toNat 64 64 .load = .ok ls) (hread : readLocs s s.cur ls = .ok (ws, s0)) (hdst : x.dst.toNat < 8) :
    let s1 := askFlat s0 s.cur a.toNat
    exec (.bnld h x) s = .next (finishIn (s1.setCore (coreOf s.cur) { s1.core (coreOf s.cur) with
      patterns := tput {} (s1.core (coreOf s.cur)).patterns x.dst.toNat
        { bits := BitVec.ofNat 512 (joinVals ls ws), tag := tagOf s (partOf s (coreOf s.cur)) } }) []) := by
  rw [exec_of_effectOp (i := .bnld h x) rfl hr ho]
  simp only [arg, List.getD_cons_zero, Val.word, hls, holdLoads_of_free hf, hread, Nat.mod_eq_of_lt hdst, whoOf]

end PatternLoad

/-- Settles O21: `pref` is an operation whose whole effect is that its thread goes on; `bnld` either meets a cause at its
places or reads them all. -/
theorem prefetchAndPatternLoad : Obligations.PrefetchAndPatternLoad :=
  ⟨fun _ _ _ _ hr ho => pref_does hr ho, fun _ _ _ _ hr ho => ⟨fun _ ht => bnld_raises hr ho ht,
    fun _ _ _ hf hls hread hdst => bnld_loads hr ho hf hls hread hdst⟩⟩

end Sys2Proof.Machine
